-- ==== Sys2Proof/Word.lean ====
section
/-! DEFINITION. The word types of the CORE (spec 10_state.md, 30_encoding.md R71). -/

namespace Sys2Proof

/-- One byte of memory, one general register, one timer (R20, R30, R50). -/
abbrev Byte := BitVec 8

/-- The 16-bit word: an instruction, `pc`, `I`, a stack entry (R23, R26, R27, R70). -/
abbrev Word := BitVec 16

/-- The 12-bit address field `nnn` (R71). -/
abbrev Addr12 := BitVec 12

/-- The number of a general register, V0 to VF (R20). -/
abbrev Reg := Fin 16

/-- A logical key, 0x0 to 0xF (R103). -/
abbrev Key := Fin 16

end Sys2Proof
end

