-- ==== Sys2Proof/Syntax.lean ====
section
/-! DEFINITION. The 34 instructions of spec 30_encoding.md R75 (one constructor per row of the opcode table). -/

namespace Sys2Proof

/-- The closed union of instruction variants, each with its operand fields (R75, R94). -/
inductive Instr where
  /-- 00E0 CLS (R180) -/
  | cls
  /-- 00EE RET (R110) -/
  | ret
  /-- 1NNN JP nnn (R112) -/
  | jp (nnn : Addr12)
  /-- 2NNN CALL nnn (R111) -/
  | call (nnn : Addr12)
  /-- 3XNN SE Vx, nn (R114) -/
  | seImm (x : Reg) (nn : Byte)
  /-- 4XNN SNE Vx, nn (R115) -/
  | sneImm (x : Reg) (nn : Byte)
  /-- 5XY0 SE Vx, Vy (R116) -/
  | seReg (x y : Reg)
  /-- 6XNN LD Vx, nn (R130) -/
  | ldImm (x : Reg) (nn : Byte)
  /-- 7XNN ADD Vx, nn (R131) -/
  | addImm (x : Reg) (nn : Byte)
  /-- 8XY0 LD Vx, Vy (R132) -/
  | ldReg (x y : Reg)
  /-- 8XY1 OR Vx, Vy (R133) -/
  | orReg (x y : Reg)
  /-- 8XY2 AND Vx, Vy (R134) -/
  | andReg (x y : Reg)
  /-- 8XY3 XOR Vx, Vy (R135) -/
  | xorReg (x y : Reg)
  /-- 8XY4 ADD Vx, Vy (R136) -/
  | addReg (x y : Reg)
  /-- 8XY5 SUB Vx, Vy (R137) -/
  | sub (x y : Reg)
  /-- 8XY6 SHR Vx, Vy (R138) -/
  | shr (x y : Reg)
  /-- 8XY7 SUBN Vx, Vy (R139) -/
  | subn (x y : Reg)
  /-- 8XYE SHL Vx, Vy (R140) -/
  | shl (x y : Reg)
  /-- 9XY0 SNE Vx, Vy (R117) -/
  | sneReg (x y : Reg)
  /-- ANNN LD I, nnn (R160) -/
  | ldI (nnn : Addr12)
  /-- BNNN JP V0, nnn (R113) -/
  | jpV0 (nnn : Addr12)
  /-- CXNN RND Vx, nn (R141) -/
  | rnd (x : Reg) (nn : Byte)
  /-- DXYN DRW Vx, Vy, n (R181); `n` is a count of sprite rows, 0 to 15 (R72, Log 15) -/
  | drw (x y : Reg) (n : Nat)
  /-- EX9E SKP Vx (R207) -/
  | skp (x : Reg)
  /-- EXA1 SKNP Vx (R208) -/
  | sknp (x : Reg)
  /-- FX07 LD Vx, DT (R223) -/
  | ldVxDt (x : Reg)
  /-- FX0A LD Vx, K (R209) -/
  | ldVxK (x : Reg)
  /-- FX15 LD DT, Vx (R224) -/
  | ldDtVx (x : Reg)
  /-- FX18 LD ST, Vx (R225) -/
  | ldStVx (x : Reg)
  /-- FX1E ADD I, Vx (R161) -/
  | addI (x : Reg)
  /-- FX29 LD F, Vx (R162) -/
  | ldF (x : Reg)
  /-- FX33 LD B, Vx (R163) -/
  | ldB (x : Reg)
  /-- FX55 LD [I], Vx (R164) -/
  | ldMemVx (x : Reg)
  /-- FX65 LD Vx, [I] (R165) -/
  | ldVxMem (x : Reg)
  deriving DecidableEq, Repr

end Sys2Proof
end

