-- ==== Sys2Proof/Config.lean ====
section
/-! DEFINITION. What construction fixes (spec 00_scope.md R9) and the values the spec leaves free. -/

namespace Sys2Proof

/-- `TIMER_DECAY` (R9, R221, R222). -/
inductive TimerDecay where
  | saturate
  | mod60
  deriving DecidableEq, Repr

/-- `DRAW_Y_WRAP`: the row origin is taken modulo 64 or modulo 32 (R9, R182). -/
inductive DrawYWrap where
  | wrap64
  | wrap32
  deriving DecidableEq, Repr

/-- `KEY_SKIP_NOT_MODE`: which predicate SKNP reads (R9, R208). -/
inductive KeySkipNotMode where
  | notPressed
  | released
  deriving DecidableEq, Repr

/-- `KEY_INDEX_MODE`: what a key operand above 0xF does (R9, R206). -/
inductive KeyIndexMode where
  | fault
  | mask
  deriving DecidableEq, Repr

/-- The CONFIG register's fields (R9, R10, R34): fixed at construction, read-only afterwards. -/
structure Config where
  vfReset : Bool
  amigaBehaviour : Bool
  modernShift : Bool
  modernStrLd : Bool
  timerDecay : TimerDecay
  drawYWrap : DrawYWrap
  keySkipNot : KeySkipNotMode
  keyIndex : KeyIndexMode
  /-- Instructions per tick, 0 to 65535 (R34, R100). -/
  ipt : BitVec 16
  deriving DecidableEq, Repr

/-- What the host gives at construction and the core keeps over a reset (R104, R270): the
configuration, the font table and the program image (Log 9). -/
structure Params where
  config : Config
  font : Vector Byte 80
  image : List Byte
  deriving DecidableEq, Repr

/-- DESIGN CHOICE (Log 6). The random source of R101: the n-th byte drawn since power-on. No law
constrains it, and nothing in Lean can evaluate it. -/
opaque Config.randByte : Nat → Byte

/-- DESIGN CHOICE (Log 7). The value of a mod60 decay of a timer holding 60 to 255, which R222 leaves a
draw: the n-th such value since power-on. -/
opaque Config.decayByte : Nat → Byte

end Sys2Proof
end

