-- ==== Sys2Proof/Machine/Defaults.lean ====
section
/-! DEFINITION. The default font of spec 20_memory.md R55 and the configuration and image the model names at reset. -/

namespace Sys2Proof.Machine

/-- The sixteen glyphs of R55, digits 0 to F, each one sprite row a byte. -/
def defaultGlyphs : List (List Byte) :=
  [[0xF0, 0x90, 0x90, 0x90, 0xF0], [0x20, 0x60, 0x20, 0x20, 0x70],
   [0xF0, 0x10, 0xF0, 0x80, 0xF0], [0xF0, 0x10, 0xF0, 0x10, 0xF0],
   [0x90, 0x90, 0xF0, 0x10, 0x10], [0xF0, 0x80, 0xF0, 0x10, 0xF0],
   [0xF0, 0x80, 0xF0, 0x90, 0xF0], [0xF0, 0x10, 0x20, 0x40, 0x40]]
  ++ [[0xF0, 0x90, 0xF0, 0x90, 0xF0], [0xF0, 0x90, 0xF0, 0x10, 0xF0],
      [0xF0, 0x90, 0xF0, 0x90, 0x90], [0xE0, 0x90, 0xE0, 0x90, 0xE0],
      [0xF0, 0x80, 0x80, 0x80, 0xF0], [0xE0, 0x90, 0x90, 0x90, 0xE0],
      [0xF0, 0x80, 0xF0, 0x80, 0xF0], [0xF0, 0x80, 0xF0, 0x80, 0x80]]

/-- The default of the parameter FONT: glyph d at 5d to 5d + 4 (R55). -/
def defaultFont : Vector Byte 80 := ⟨defaultGlyphs.flatten.toArray, by decide⟩

/-- The configuration the model names at `State.reset`. The spec gives the last four of the modes their
defaults (R9); DESIGN CHOICE (Log 4): the four quirk toggles false and IPT = 1, which R9 leaves OPEN. -/
def defaultConfig : Config where
  vfReset := false
  amigaBehaviour := false
  modernShift := false
  modernStrLd := false
  timerDecay := .saturate
  drawYWrap := .wrap64
  keySkipNot := .notPressed
  keyIndex := .fault
  ipt := 1

/-- What the model names as construction's arguments at `State.reset` (Log 4, Log 5): an empty image, which
R68 accepts. -/
def defaultParams : Params where
  config := defaultConfig
  font := defaultFont
  image := []

end Sys2Proof.Machine
end

