-- ==== Sys2Proof/Machine/State.lean ====
section
/-! DEFINITION. The architectural state of spec 10_state.md (record R40), the fault causes, and the state after reset. -/

namespace Sys2Proof.Machine

/-- The closed set of fault causes of R241. In this model a fault is TAKEN (R243): the slot that raises it answers a
next state whose FAULT register names the cause, and no step answers `Outcome.fault` (Log 3). -/
inductive Fault where
  /-- Code 1. Raised by decode of any illegal word (R77, R94). Taken; safe. -/
  | unknownOpcode
  /-- Code 2. Raised by CALL with `sp` = 16 (R111). Taken; safe. -/
  | stackOverflow
  /-- Code 3. Raised by RET with `sp` = 0 (R110). Taken; safe. -/
  | stackUnderflow
  /-- Code 4. Raised by fetch (R92) and by DRW, LD B, LD [I] and LD Vx, [I] (R60). Taken; safe. -/
  | addressOutOfRange
  /-- Code 5. Raised by SKP and SKNP on V[x] > 0xF under KEY_INDEX_MODE = fault (R206). Taken; safe. -/
  | keyOutOfRange
  deriving DecidableEq, Repr

/-- Why a step has no next state. -/
inductive Refusal where
  /-- An arm of `exec` that has no meaning yet. Raised by no arm of this model. Safe. -/
  | notModelled (mnemonic : String)
  /-- Construction refuses an image of more than 3584 bytes (R68, R271). Raised by `construct`, and by a host reset of
  a state that holds such an image, which no construction makes (Log 10). Safe. -/
  | imageTooLong
  deriving DecidableEq, Repr

/-- What a step, and the meaning of an instruction, answers. -/
abbrev Result (σ : Type) := Host.Outcome σ Fault Refusal

/-- The call stack: 16 entries and a depth (R27). -/
structure CallStack where
  entries : Vector Word 16
  /-- How many entries are in use, 0 to 16. -/
  sp : Fin 17
  deriving DecidableEq, Repr

/-- The display: 32 rows of 64 cells, `disp[y][x]` (R29). -/
abbrev Display := Vector (Vector Bool 64) 32

/-- The PendingKeyWait record (R32). -/
structure PendingKeyWait where
  valid : Bool
  key : Key
  age : Byte
  deriving DecidableEq, Repr

/-- The keypad block (R31, R32). Ages saturate at `AGE_MAX` = 255. -/
structure Keypad where
  pressAge : Vector Byte 16
  releaseAge : Vector Byte 16
  pending : PendingKeyWait
  deriving DecidableEq, Repr

/-- The FAULT and FAULT_INFO registers of a faulted core (R34, R243). -/
structure FaultRecord where
  /-- FAULT.CODE -/
  cause : Fault
  /-- FAULT.PC, the address of the faulting instruction -/
  pc : Word
  /-- FAULT_INFO.OPCODE, the fetched word, 0 for a fetch fault -/
  opcode : Word
  /-- FAULT_INFO.ADDR, by cause (R241) -/
  addr : Word
  deriving DecidableEq, Repr

/-- Memory: the listed bytes in rising address order. What an unlisted address reads as is
`Memory.unlisted`, and the canonical form is `Memory.wf` (Machine/Ops.lean). -/
abbrev Memory := List Host.Cell

/-- The two kinds of key event (R103). -/
inductive KeyEventKind where
  | pressed
  | released
  deriving DecidableEq, Repr

/-- One key event of a tick's batch (R103). -/
structure KeyEvent where
  key : Key
  kind : KeyEventKind
  deriving DecidableEq, Repr

/-- A move of the host at a tick boundary (R104) that the core has yet to take. A read changes nothing and so
is a function of the state (Machine/HostPort.lean); a stop is the end of a run. -/
inductive HostInput where
  /-- The next tick, with its batch of key events in order (R99, R103). -/
  | tick (events : List KeyEvent)
  /-- Reset (R104, R270). -/
  | reset
  /-- A write to the host register map, which is ignored (R34, Log 12). -/
  | writeRegister (offset : Nat) (value : BitVec 32)
  deriving DecidableEq, Repr

/-- Where the machine stands in the tick of R99. DESIGN CHOICE (Log 1): the model's own field. -/
inductive TickPhase where
  /-- Between two ticks: the host's next move comes first. -/
  | boundary
  /-- Phase 3, with this many slots of the batch still to run. -/
  | batch (slotsLeft : Nat)
  deriving DecidableEq, Repr

/-- How many free values have been drawn. DESIGN CHOICE (Log 6, Log 7): the model's own fields. -/
structure Draws where
  /-- Bytes taken from the random source (R101). -/
  random : Nat
  /-- Values taken for a mod60 decay that R222 leaves a draw. -/
  decay : Nat
  deriving DecidableEq, Repr

/-- The state record of R40, the parameters that the core keeps (R104, R270), and the model's own fields. -/
structure State where
  /-- V0 to VF (R20) -/
  v : Vector Byte 16
  /-- The index register (R26) -/
  i : Word
  /-- The program counter (R23) -/
  pc : Word
  /-- The call stack (R27) -/
  stack : CallStack
  /-- The 4096 bytes of memory (R50) -/
  mem : Memory
  /-- The display grid (R29) -/
  disp : Display
  /-- The delay timer (R30) -/
  dt : Byte
  /-- The sound timer (R30) -/
  st : Byte
  /-- Key ages and the PendingKeyWait record (R31, R32) -/
  keypad : Keypad
  /-- FAULT and FAULT_INFO; none is CODE = 0 (R34) -/
  fault : Option FaultRecord
  /-- CONFIG (R34), FONT (R55) and the image (R68), as constructed -/
  params : Params
  /-- Where the tick stands (Log 1) -/
  tick : TickPhase
  /-- The host's pending moves, oldest first (Log 2) -/
  inputs : List HostInput
  /-- The free values drawn so far (Log 6, Log 7) -/
  draws : Draws
  deriving DecidableEq, Repr

/-- The machine right after reset (R272, R273), for the construction arguments of `defaultParams` (Log 4,
Log 5): memory then holds the default font and zeros, which is what unlisted addresses read as. -/
def State.reset : State where
  v := Vector.replicate 16 0
  i := 0
  pc := 0x200
  stack := { entries := Vector.replicate 16 0, sp := 0 }
  mem := []
  disp := Vector.replicate 32 (Vector.replicate 64 false)
  dt := 0
  st := 0
  keypad :=
    { pressAge := Vector.replicate 16 255
      releaseAge := Vector.replicate 16 255
      pending := { valid := false, key := 0, age := 255 } }
  fault := none
  params := defaultParams
  tick := .boundary
  inputs := []
  draws := { random := 0, decay := 0 }

end Sys2Proof.Machine
end

