-- ==== Sys2Proof/Machine/Ops.lean ====
section
/-! DEFINITION. The named operations over registers, memory, call stack and display, and fault entry (spec 00_scope.md
R13, 10_state.md R28, 20_memory.md, 60_exceptions.md R243). -/

namespace Sys2Proof.Machine

/-! ## Sixteen-entry files -/

/-- The file of sixteen entries whose entry `k` is `f k`. -/
def tabulate {α : Type} (f : Fin 16 → α) : Vector α 16 :=
  #v[f 0, f 1, f 2, f 3, f 4, f 5, f 6, f 7, f 8, f 9, f 10, f 11, f 12, f 13, f 14, f 15]

/-! ## General registers (R20, R21) -/

/-- VF, the flag register (R21). -/
def vf : Reg := 15

/-- `V[x]` (R13). -/
def State.readV (s : State) (x : Reg) : Byte := s.v[x]

/-- `V[x] <- b` (R13). No register is hard-wired (R20). -/
def State.writeV (s : State) (x : Reg) (b : Byte) : State := { s with v := s.v.set x b }

/-! ## Index register, program counter, timers (R23, R26, R30) -/

/-- `I <- w`. No write masks `I` to 12 bits (R26). -/
def State.setI (s : State) (w : Word) : State := { s with i := w }

/-- `pc <- w` (R24). -/
def State.setPc (s : State) (w : Word) : State := { s with pc := w }

/-- `DT <- b` (R30). -/
def State.setDt (s : State) (b : Byte) : State := { s with dt := b }

/-- `ST <- b` (R30). -/
def State.setSt (s : State) (b : Byte) : State := { s with st := b }

/-! ## Memory (R50 to R60) -/

/-- The number of bytes of memory (R7). -/
def memSize : Nat := 4096

/-- What an address that memory does not list reads as: the contents after reset with the default font and an
empty image, namely the font at 0x000 and zero elsewhere (R53, R55, R271, Log 5). -/
def Memory.unlisted (a : Nat) : Byte := (defaultFont[a]?).getD 0

/-- `MemRead(a, 1)` (R13, R58). -/
def Memory.read : Memory → Nat → Byte
  | [], a => Memory.unlisted a
  | (k, c) :: rest, a => if a = k then c else Memory.read rest a

/-- `MemWrite(a, 1, b)` (R13, R58), keeping the canonical form: a byte equal to what the unlisted address
reads as is not listed. -/
def Memory.write : Memory → Nat → Byte → Memory
  | [], a, b => if b = Memory.unlisted a then [] else [(a, b)]
  | (k, c) :: rest, a, b =>
    if a < k then
      if b = Memory.unlisted a then (k, c) :: rest else (a, b) :: (k, c) :: rest
    else if a = k then
      if b = Memory.unlisted a then rest else (a, b) :: rest
    else (k, c) :: Memory.write rest a b

/-- Store bytes at ascending addresses from `base` (R57). -/
def Memory.writeBytes : Memory → Nat → List Byte → Memory
  | m, _, [] => m
  | m, base, b :: bs => Memory.writeBytes (Memory.write m base b) (base + 1) bs

/-- Every listed address lies above `lo`, the next ones rise from it, all exist, and none is listed with what it
would read as unlisted. -/
def Memory.wfFrom : Nat → Memory → Bool
  | _, [] => true
  | lo, (k, c) :: rest => decide (lo ≤ k ∧ k < memSize ∧ c ≠ Memory.unlisted k) && Memory.wfFrom (k + 1) rest

/-- The canonical form of memory. -/
def Memory.wf (m : Memory) : Bool := Memory.wfFrom 0 m

/-- Replace memory. -/
def State.setMem (s : State) (m : Memory) : State := { s with mem := m }

/-- `CheckAddr` over the `count` addresses from `base`, on unbounded naturals: the lowest that lies
above 0xFFF (R52, R60). -/
def firstOutOfRange (base count : Nat) : Option Nat :=
  (List.range count).findSome? fun k => if base + k < memSize then none else some (base + k)

/-! ## Call stack (R27, R28) -/

/-- `push(v)`, none when all 16 entries are in use (R28). -/
def CallStack.push (k : CallStack) (w : Word) : Option CallStack :=
  if h : k.sp.val < 16 then
    some { entries := k.entries.set k.sp.val w h, sp := ⟨k.sp.val + 1, by omega⟩ }
  else none

/-- `pop()`: the entry and the stack below it, none when empty (R28). The entry keeps its value. -/
def CallStack.pop (k : CallStack) : Option (Word × CallStack) :=
  if h : 0 < k.sp.val then
    some (k.entries[k.sp.val - 1]'(by omega), { k with sp := ⟨k.sp.val - 1, by omega⟩ })
  else none

/-- Replace the call stack. -/
def State.setStack (s : State) (k : CallStack) : State := { s with stack := k }

/-! ## Display (R29) -/

/-- The clear display (R180). -/
def Display.clear : Display := Vector.replicate 32 (Vector.replicate 64 false)

/-- `disp[y][x]` (R13). -/
def Display.cell (d : Display) (y : Fin 32) (x : Fin 64) : Bool := (d[y])[x]

/-- `disp[y][x] <- not disp[y][x]` (R181). -/
def Display.toggle (d : Display) (y : Fin 32) (x : Fin 64) : Display :=
  d.set y ((d[y]).set x (!Display.cell d y x))

/-- Replace the display. -/
def State.setDisp (s : State) (d : Display) : State := { s with disp := d }

/-! ## Keypad, tick, draws -/

/-- Replace the keypad block. -/
def State.setKeypad (s : State) (k : Keypad) : State := { s with keypad := k }

/-- Move to another place in the tick (Log 1). -/
def State.setTick (s : State) (t : TickPhase) : State := { s with tick := t }

/-- Replace the host's pending moves (Log 2). -/
def State.setInputs (s : State) (l : List HostInput) : State := { s with inputs := l }

/-- Replace the counts of free values drawn (Log 6, Log 7). -/
def State.setDraws (s : State) (d : Draws) : State := { s with draws := d }

/-- The configuration (R34). -/
def State.config (s : State) : Config := s.params.config

/-! ## Faults (R243 to R245) -/

/-- `halted` (R35). -/
def State.halted (s : State) : Bool := s.fault.isSome

/-- FAULT ENTRY (R243, R244): the FAULT registers are written and `pc` is the faulting instruction's own address.
Nothing else changes: there is no vector, no saved status and no mode. There is no return from a
fault either (R247); the way out is the host's reset (`State.restart`, Machine/Tick.lean). -/
def State.enterFault (s : State) (cause : Fault) (pc0 opcode addr : Word) : State :=
  { s with pc := pc0, fault := some { cause := cause, pc := pc0, opcode := opcode, addr := addr } }

/-- `raise F` inside an execute phase, where `pc` holds `pc0 + 2` (R23, R93) and the word fetched is the
instruction's one encoding (R79, Log 8). Each meaning raises before it writes anything (R14, R60). -/
def raise (i : Instr) (cause : Fault) (addr : Word) (s : State) : Result State :=
  .next (s.enterFault cause (s.pc - 2) (encode i) addr)

/-- The range check of a data access of `count` bytes through `I`, then the effect: AddressOutOfRange for
the lowest bad address, with no effect, or the state the effect gives (R60, R242). -/
def withRange (i : Instr) (count : Nat) (s : State) (effect : State) : Result State :=
  match firstOutOfRange s.i.toNat count with
  | some a => raise i .addressOutOfRange (BitVec.ofNat 16 a) s
  | none => .next effect

end Sys2Proof.Machine
end

