-- ==== Sys2Proof/Machine/Operands.lean ====
section
/-! DEFINITION. The operand forms of spec 30_encoding.md R72, R73, 43_index_memory.md R166 and 45_keypad.md R206. -/

namespace Sys2Proof.Machine

/-- The 12-bit address field as a 16-bit value, zero-extended (R72). -/
def zextAddr (nnn : Addr12) : Word := nnn.setWidth 16

/-- A byte as a 16-bit value, zero-extended (R72). -/
def zextByte (b : Byte) : Word := b.setWidth 16

/-- The effective address `I + k` on unbounded naturals (R166). -/
def State.indexAddr (s : State) (k : Nat) : Nat := s.i.toNat + k

/-- The addresses of the `count` bytes at `I` (R166). -/
def State.indexAddrs (s : State) (count : Nat) : List Nat := (List.range count).map s.indexAddr

/-- The source operand of a shift (R138, R140). -/
def State.shiftSource (s : State) (x y : Reg) : Byte :=
  if s.config.modernShift then s.readV x else s.readV y

/-- `FONT_BASE`, where the glyphs start (R8). -/
def fontBase : Nat := 0

/-- The address of the glyph FX29 points at, five bytes a glyph, V[x] not masked (R162). -/
def glyphAddr (b : Byte) : Word := BitVec.ofNat 16 (fontBase + b.toNat * 5)

/-- `keyarg(v)` (R206): the key a register value names, none where KeyOutOfRange is raised. -/
def keyArg (mode : KeyIndexMode) (b : Byte) : Option Key :=
  if h : b.toNat ≤ 0xF then some ⟨b.toNat, by omega⟩
  else
    match mode with
    | .fault => none
    | .mask => some (b.extractLsb' 0 4).toFin

/-- The registers V[0] to V[x] in order (R73). -/
def State.regsUpTo (s : State) (x : Reg) : List Byte := s.v.toList.take (x.val + 1)

/-- The digits FX33 stores: hundreds, tens, units (R163). -/
def bcdDigits (b : Byte) : List Byte :=
  [BitVec.ofNat 8 (b.toNat / 100), BitVec.ofNat 8 (b.toNat / 10 % 10), BitVec.ofNat 8 (b.toNat % 10)]

/-- `I` after FX55 and FX65: past the bytes copied, or unchanged under MODERN_STR_LD_BEHAVIOUR (R164, R165). -/
def State.indexAfterCopy (s : State) (x : Reg) : Word :=
  if s.config.modernStrLd then s.i else BitVec.ofNat 16 (s.i.toNat + x.val + 1)

/-- The row origin's modulus (R182). -/
def drawYModulus : DrawYWrap → Nat
  | .wrap64 => 64
  | .wrap32 => 32

end Sys2Proof.Machine
end

