-- ==== Sys2Proof/Machine/Flags.lean ====
section
/-! DEFINITION. Every value the CORE computes for the flag register VF (spec 10_state.md R21). There are no other flags (R36). -/

namespace Sys2Proof.Machine

/-- A flag as the byte VF holds. -/
def flagByte (b : Bool) : Byte := if b then 1 else 0

/-- `V[F] <- flag`, the last write of an instruction that sets it (R143). -/
def State.writeFlag (s : State) (b : Bool) : State := s.writeV vf (flagByte b)

/-- Carry of 8XY4: the exact sum exceeds 8 bits (R136). -/
def carryFlag (a b : Byte) : Bool := decide (a.toNat + b.toNat > 0xFF)

/-- NOT borrow of `a - b` (R137, R139). -/
def notBorrowFlag (a b : Byte) : Bool := decide (a.toNat ≥ b.toNat)

/-- The bit a right shift by one shifts out (R138). -/
def shiftedOutRight (b : Byte) : Bool := b.getLsbD 0

/-- The bit a left shift by one shifts out (R140). -/
def shiftedOutLeft (b : Byte) : Bool := b.getLsbD 7

/-- The exact sum of FX1E lies beyond 0x0FFF (R161). -/
def indexOverflowFlag (i : Word) (b : Byte) : Bool := decide (i.toNat + b.toNat > 0x0FFF)

/-- 8XY1, 8XY2 and 8XY3 clear VF under VF_RESET, after V[x] is written (R133 to R135). -/
def State.clearFlagIfVfReset (s : State) : State :=
  if s.config.vfReset then s.writeV vf 0 else s

end Sys2Proof.Machine
end

