-- ==== Sys2Proof/Machine/Alu.lean ====
section
/-! DEFINITION. Register and ALU operations (spec 42_alu.md). Operands are read first, V[x] is written next, VF last (R143). -/

namespace Sys2Proof.Machine

/-- 6XNN LD Vx, nn (R130). -/
def execLdImm (x : Reg) (nn : Byte) (s : State) : Host.Outcome State Fault Refusal :=
  .next (s.writeV x nn)

/-- 7XNN ADD Vx, nn, no carry (R131). -/
def execAddImm (x : Reg) (nn : Byte) (s : State) : Host.Outcome State Fault Refusal :=
  .next (s.writeV x (BitVec.ofNat 8 ((s.readV x).toNat + nn.toNat)))

/-- 8XY0 LD Vx, Vy (R132). -/
def execLdReg (x y : Reg) (s : State) : Host.Outcome State Fault Refusal :=
  .next (s.writeV x (s.readV y))

/-- 8XY1 OR Vx, Vy (R133). -/
def execOrReg (x y : Reg) (s : State) : Host.Outcome State Fault Refusal :=
  .next (s.writeV x (s.readV x ||| s.readV y)).clearFlagIfVfReset

/-- 8XY2 AND Vx, Vy (R134). -/
def execAndReg (x y : Reg) (s : State) : Host.Outcome State Fault Refusal :=
  .next (s.writeV x (s.readV x &&& s.readV y)).clearFlagIfVfReset

/-- 8XY3 XOR Vx, Vy (R135). -/
def execXorReg (x y : Reg) (s : State) : Host.Outcome State Fault Refusal :=
  .next (s.writeV x (s.readV x ^^^ s.readV y)).clearFlagIfVfReset

/-- 8XY4 ADD Vx, Vy with carry (R136). -/
def execAddReg (x y : Reg) (s : State) : Host.Outcome State Fault Refusal :=
  let a := s.readV x
  let b := s.readV y
  .next ((s.writeV x (BitVec.ofNat 8 (a.toNat + b.toNat))).writeFlag (carryFlag a b))

/-- 8XY5 SUB Vx, Vy (R137), computed as the rule says: (a + 256 - b) mod 256. -/
def execSub (x y : Reg) (s : State) : Host.Outcome State Fault Refusal :=
  let a := s.readV x
  let b := s.readV y
  .next ((s.writeV x (BitVec.ofNat 8 (a.toNat + 256 - b.toNat))).writeFlag (notBorrowFlag a b))

/-- 8XY6 SHR Vx, Vy (R138). -/
def execShr (x y : Reg) (s : State) : Host.Outcome State Fault Refusal :=
  let src := s.shiftSource x y
  .next ((s.writeV x (src >>> 1)).writeFlag (shiftedOutRight src))

/-- 8XY7 SUBN Vx, Vy (R139). -/
def execSubn (x y : Reg) (s : State) : Host.Outcome State Fault Refusal :=
  let a := s.readV x
  let b := s.readV y
  .next ((s.writeV x (BitVec.ofNat 8 (b.toNat + 256 - a.toNat))).writeFlag (notBorrowFlag b a))

/-- 8XYE SHL Vx, Vy (R140). -/
def execShl (x y : Reg) (s : State) : Host.Outcome State Fault Refusal :=
  let src := s.shiftSource x y
  .next ((s.writeV x (src <<< 1)).writeFlag (shiftedOutLeft src))

/-- The byte `rand8()` answers next: a free value (R101, Log 6). -/
def State.nextRandom (s : State) : Byte := Config.randByte s.draws.random

/-- One draw is consumed (R101, R141). -/
def State.consumeRandom (s : State) : State :=
  s.setDraws { s.draws with random := s.draws.random + 1 }

/-- CXNN RND Vx, nn (R141): one draw each time it executes, whatever `nn` is. -/
def execRnd (x : Reg) (nn : Byte) (s : State) : Host.Outcome State Fault Refusal :=
  .next (s.consumeRandom.writeV x (s.nextRandom &&& nn))

end Sys2Proof.Machine
end

