-- ==== Sys2Proof/Machine/Control.lean ====
section
/-! DEFINITION. Control flow: RET, CALL, JP, JP V0, SE, SNE (spec 41_control_flow.md). In every meaning `pc` already holds
`pc0 + 2` (R93). -/

namespace Sys2Proof.Machine

/-- A skip adds 2 more to `pc` when its condition holds (R118). -/
def State.skipIf (s : State) (cond : Bool) : State :=
  if cond then s.setPc (s.pc + 2) else s

/-- 00EE RET (R110). The popped value is not checked. -/
def execRet (s : State) : Host.Outcome State Fault Refusal :=
  match s.stack.pop with
  | some (w, k) => .next ((s.setStack k).setPc w)
  | none => raise .ret .stackUnderflow 0 s

/-- 1NNN JP nnn (R112). -/
def execJp (nnn : Addr12) (s : State) : Host.Outcome State Fault Refusal :=
  .next (s.setPc (zextAddr nnn))

/-- 2NNN CALL nnn (R111). The return address is `pc` as it stands, `pc0 + 2`. -/
def execCall (nnn : Addr12) (s : State) : Host.Outcome State Fault Refusal :=
  match s.stack.push s.pc with
  | some k => .next ((s.setStack k).setPc (zextAddr nnn))
  | none => raise (.call nnn) .stackOverflow 0 s

/-- 3XNN SE Vx, nn (R114). -/
def execSeImm (x : Reg) (nn : Byte) (s : State) : Host.Outcome State Fault Refusal :=
  .next (s.skipIf (decide (s.readV x = nn)))

/-- 4XNN SNE Vx, nn (R115). -/
def execSneImm (x : Reg) (nn : Byte) (s : State) : Host.Outcome State Fault Refusal :=
  .next (s.skipIf (decide (s.readV x ≠ nn)))

/-- 5XY0 SE Vx, Vy (R116). -/
def execSeReg (x y : Reg) (s : State) : Host.Outcome State Fault Refusal :=
  .next (s.skipIf (decide (s.readV x = s.readV y)))

/-- 9XY0 SNE Vx, Vy (R117). -/
def execSneReg (x y : Reg) (s : State) : Host.Outcome State Fault Refusal :=
  .next (s.skipIf (decide (s.readV x ≠ s.readV y)))

/-- BNNN JP V0, nnn (R113). The sum is at most 0x10FE and never wraps. -/
def execJpV0 (nnn : Addr12) (s : State) : Host.Outcome State Fault Refusal :=
  .next (s.setPc (zextAddr nnn + zextByte (s.readV 0)))

end Sys2Proof.Machine
end

