-- ==== Sys2Proof/Machine/Draw.lean ====
section
/-! DEFINITION. Display and sprite renderer: CLS, DRW (spec 44_display.md). -/

namespace Sys2Proof.Machine

/-- What the renderer carries from pixel to pixel: the grid and whether a set cell was hit (R181, R185). -/
structure Canvas where
  disp : Display
  collide : Bool
  deriving DecidableEq, Repr

/-- One sprite bit at a row and column (R181): off the grid it is dropped (R183), a 0 bit changes nothing, a
1 bit toggles the cell and records a hit on a set one (R185). -/
def Canvas.plot (c : Canvas) (row col : Nat) (bit : Bool) : Canvas :=
  if h : row < 32 ∧ col < 64 then
    if bit then
      { disp := c.disp.toggle ⟨row, h.1⟩ ⟨col, h.2⟩
        collide := c.collide || c.disp.cell ⟨row, h.1⟩ ⟨col, h.2⟩ }
    else c
  else c

/-- The eight bits of a sprite byte, bit 7 leftmost (R184). -/
def Canvas.plotRow (c : Canvas) (row x0 : Nat) (b : Byte) : Canvas :=
  (List.range 8).foldl (fun c k => c.plot row (x0 + k) (b.getLsbD (7 - k))) c

/-- The `n` rows of a sprite, row r from the byte at `base + r` (R181, R184). -/
def Canvas.plotSprite (c : Canvas) (mem : Memory) (base x0 y0 n : Nat) : Canvas :=
  (List.range n).foldl (fun c r => c.plotRow (y0 + r) x0 (mem.read (base + r))) c

/-- The column origin of DRW (R182). -/
def State.drawColumn (s : State) (x : Reg) : Nat := (s.readV x).toNat % 64

/-- The row origin of DRW (R182). -/
def State.drawRow (s : State) (y : Reg) : Nat := (s.readV y).toNat % drawYModulus s.config.drawYWrap

/-- The canvas DRW leaves: VF starts from 0 (R181). -/
def State.drawn (s : State) (x y : Reg) (n : Nat) : Canvas :=
  Canvas.plotSprite { disp := s.disp, collide := false } s.mem (s.indexAddr 0) (s.drawColumn x) (s.drawRow y) n

/-- 00E0 CLS (R180). -/
def execCls (s : State) : Host.Outcome State Fault Refusal :=
  .next (s.setDisp Display.clear)

/-- DXYN DRW Vx, Vy, n (R181). The coordinates are read before VF is written. -/
def execDrw (x y : Reg) (n : Nat) (s : State) : Host.Outcome State Fault Refusal :=
  withRange (.drw x y n) n s
    ((s.setDisp (s.drawn x y n).disp).writeFlag (s.drawn x y n).collide)

end Sys2Proof.Machine
end

