-- ==== Sys2Proof/Machine/IndexMemory.lean ====
section
/-! DEFINITION. Index register and memory operations (spec 43_index_memory.md). Every address is checked before anything
is written (R60). -/

namespace Sys2Proof.Machine

/-- ANNN LD I, nnn (R160). -/
def execLdI (nnn : Addr12) (s : State) : Host.Outcome State Fault Refusal :=
  .next (s.setI (zextAddr nnn))

/-- FX1E ADD I, Vx (R161): VF is written under AMIGA_BEHAVIOUR only. -/
def execAddI (x : Reg) (s : State) : Host.Outcome State Fault Refusal :=
  let b := s.readV x
  let t := s.setI (BitVec.ofNat 16 (s.i.toNat + b.toNat))
  .next (if s.config.amigaBehaviour then t.writeFlag (indexOverflowFlag s.i b) else t)

/-- FX29 LD F, Vx (R162). -/
def execLdF (x : Reg) (s : State) : Host.Outcome State Fault Refusal :=
  .next (s.setI (glyphAddr (s.readV x)))

/-- FX33 LD B, Vx (R163). -/
def execLdB (x : Reg) (s : State) : Host.Outcome State Fault Refusal :=
  withRange (.ldB x) 3 s
    (s.setMem (s.mem.writeBytes (s.indexAddr 0) (bcdDigits (s.readV x))))

/-- FX55 LD [I], Vx (R164). -/
def execLdMemVx (x : Reg) (s : State) : Host.Outcome State Fault Refusal :=
  withRange (.ldMemVx x) (x.val + 1) s
    ((s.setMem (s.mem.writeBytes (s.indexAddr 0) (s.regsUpTo x))).setI (s.indexAfterCopy x))

/-- V[0] to V[x] read from memory at `I`, the other registers kept (R165). No memory read depends on a
register write, so the order is not observable. -/
def State.loadRegs (s : State) (x : Reg) : State :=
  { s with v := tabulate fun k => if k ≤ x then s.mem.read (s.indexAddr k.val) else s.readV k }

/-- FX65 LD Vx, [I] (R165). -/
def execLdVxMem (x : Reg) (s : State) : Host.Outcome State Fault Refusal :=
  withRange (.ldVxMem x) (x.val + 1) s
    ((s.loadRegs x).setI (s.indexAfterCopy x))

end Sys2Proof.Machine
end

