-- ==== Sys2Proof/Machine/KeypadOps.lean ====
section
/-! DEFINITION. The keypad block: tick-time update, predicates, SKP, SKNP, LD Vx K (spec 45_keypad.md). -/

namespace Sys2Proof.Machine

/-! ## Tick-time update (R200 to R202) -/

/-- One more tick of age, saturating at AGE_MAX = 255 (R8, R200). -/
def ageStep (a : Byte) : Byte := if a = 255#8 then a else a + 1

/-- Phase 1 of a tick (R200). -/
def Keypad.age (k : Keypad) : Keypad where
  pressAge := tabulate fun j => ageStep k.pressAge[j]
  releaseAge := tabulate fun j => ageStep k.releaseAge[j]
  pending := if k.pending.valid then { k.pending with age := ageStep k.pending.age } else k.pending

/-- One event of phase 2 (R201, R202). -/
def Keypad.event (k : Keypad) (e : KeyEvent) : Keypad :=
  match e.kind with
  | .pressed =>
    { k with pressAge := k.pressAge.set e.key 0, pending := { valid := true, key := e.key, age := 0 } }
  | .released => { k with releaseAge := k.releaseAge.set e.key 0 }

/-- Phases 1 and 2: all ages, then the batch in list order (R99, R200 to R202). -/
def Keypad.update (k : Keypad) (events : List KeyEvent) : Keypad :=
  events.foldl Keypad.event k.age

/-! ## Predicates (R203, R204) -/

/-- The last age at which a key still counts as pressed or released (R7). -/
def debounceWindow : Nat := 3

/-- `is_pressed(k)` (R203). -/
def Keypad.isPressed (p : Keypad) (k : Key) : Bool := decide (p.pressAge[k].toNat ≤ debounceWindow)

/-- `is_released(k)` (R204). -/
def Keypad.isReleased (p : Keypad) (k : Key) : Bool := decide (p.releaseAge[k].toNat ≤ debounceWindow)

/-- The condition SKNP tests (R208). -/
def Keypad.skipNotCond (p : Keypad) (mode : KeySkipNotMode) (k : Key) : Bool :=
  match mode with
  | .notPressed => !p.isPressed k
  | .released => p.isReleased k

/-! ## Instructions -/

/-- EX9E SKP Vx (R207). -/
def execSkp (x : Reg) (s : State) : Host.Outcome State Fault Refusal :=
  match keyArg s.config.keyIndex (s.readV x) with
  | some k => .next (s.skipIf (s.keypad.isPressed k))
  | none => raise (.skp x) .keyOutOfRange (zextByte (s.readV x)) s

/-- EXA1 SKNP Vx (R208). -/
def execSknp (x : Reg) (s : State) : Host.Outcome State Fault Refusal :=
  match keyArg s.config.keyIndex (s.readV x) with
  | some k => .next (s.skipIf (s.keypad.skipNotCond s.config.keySkipNot k))
  | none => raise (.sknp x) .keyOutOfRange (zextByte (s.readV x)) s

/-- The press edge FX0A waits for (R205, R209). -/
def PendingKeyWait.fresh (p : PendingKeyWait) : Bool := p.valid && decide (p.age = 0)

/-- The record after FX0A has consumed it (R209). -/
def Keypad.consume (k : Keypad) : Keypad := { k with pending := { k.pending with valid := false } }

/-- FX0A LD Vx, K (R209): V[x] takes the fresh key and the record is consumed, or `pc` goes back to `pc0`, two
below what it holds here (R93), and nothing else changes (R210). -/
def execLdVxK (x : Reg) (s : State) : Host.Outcome State Fault Refusal :=
  if s.keypad.pending.fresh then
    .next ((s.writeV x (BitVec.ofNat 8 s.keypad.pending.key.val)).setKeypad s.keypad.consume)
  else .next (s.setPc (s.pc - 2))

end Sys2Proof.Machine
end

