-- ==== Sys2Proof/Machine/Timers.lean ====
section
/-! DEFINITION. The timer decay and the timer instructions (spec 46_timers.md). -/

namespace Sys2Proof.Machine

/-! ## Decay (R220 to R222) -/

/-- Whether a decay takes a free value: mod60 with 60 or more (R222). -/
def decayIsFree (mode : TimerDecay) (b : Byte) : Bool :=
  match mode with
  | .saturate => false
  | .mod60 => decide (60 ≤ b.toNat)

/-- `decay(v)` (R221, R222), with the value to take where R222 leaves it a draw. -/
def decay (mode : TimerDecay) (b free : Byte) : Byte :=
  match mode with
  | .saturate => if b = 0 then 0 else b - 1
  | .mod60 => if b.toNat < 60 then BitVec.ofNat 8 ((b.toNat + 59) % 60) else free

/-- How many free values have been drawn after a timer holding `b` has decayed. -/
def drawsAfter (mode : TimerDecay) (b : Byte) (n : Nat) : Nat := if decayIsFree mode b then n + 1 else n

/-- Phase 4 of a tick: DT, then ST (R99, R220). Each open decay takes a free value of its own (Log 7). -/
def State.decayTimers (s : State) : State :=
  let mode := s.config.timerDecay
  let n := s.draws.decay
  let n' := drawsAfter mode s.dt n
  { s with
    dt := decay mode s.dt (Config.decayByte n)
    st := decay mode s.st (Config.decayByte n')
    draws := { s.draws with decay := drawsAfter mode s.st n' } }

/-! ## Instructions -/

/-- FX07 LD Vx, DT (R223). -/
def execLdVxDt (x : Reg) (s : State) : Host.Outcome State Fault Refusal :=
  .next (s.writeV x s.dt)

/-- FX15 LD DT, Vx (R224). -/
def execLdDtVx (x : Reg) (s : State) : Host.Outcome State Fault Refusal :=
  .next (s.setDt (s.readV x))

/-- FX18 LD ST, Vx (R225). -/
def execLdStVx (x : Reg) (s : State) : Host.Outcome State Fault Refusal :=
  .next (s.setSt (s.readV x))

end Sys2Proof.Machine
end

