-- ==== Sys2Proof/Machine/Slot.lean ====
section
/-! DEFINITION. One instruction slot: fetch, decode, advance, execute (spec 40_pipeline.md section 1). -/

namespace Sys2Proof.Machine

/-- Fetch (R91, R92): the big-endian word at `pc`, or the lowest out-of-range address. -/
def State.fetch (s : State) : Except Nat Word :=
  match firstOutOfRange s.pc.toNat 2 with
  | some a => .error a
  | none => .ok (wordOfBytes (s.mem.read s.pc.toNat) (s.mem.read (s.pc.toNat + 1)))

/-- The advance of `pc` before the execute phase (R93). -/
def State.advancePc (s : State) : State := s.setPc (s.pc + 2)

/-- `step_instr` (R90, R98). The result `Faulted(F)` of the rule is the FAULT register of the state answered, and a
halted core is left as it is (R97, Log 3). -/
def stepInstr (s : State) : Host.Outcome State Fault Refusal :=
  if s.halted then .next s
  else
    match s.fetch with
    | .error a => .next (s.enterFault .addressOutOfRange s.pc 0 (BitVec.ofNat 16 a))
    | .ok w =>
      match decode w with
      | .error _ => .next (s.enterFault .unknownOpcode s.pc w 0)
      | .ok i => exec i s.advancePc

end Sys2Proof.Machine
end

