-- ==== Sys2Proof/Machine/Tick.lean ====
section
/-! DEFINITION. Construction and reset (spec 70_reset_and_hazards.md), the tick (spec 40_pipeline.md section 2), and
the sequencer that takes the host's moves and the tick apart into steps of one instruction slot (Log 1). -/

namespace Sys2Proof.Machine

/-! ## Construction and reset (R270 to R274) -/

/-- The longest image construction accepts (R7, R68). -/
def maxImage : Nat := 3584

/-- Where the image is loaded and the program starts (R7, R273). -/
def programBase : Nat := 0x200

/-- Memory after `init`: zeros, the font, the image (R271). Steps 1 and 2 write over the unlisted bytes, so that a font
other than the default is listed where it differs. -/
def initMemory (p : Params) : Memory :=
  Memory.writeBytes (Memory.writeBytes [] fontBase p.font.toList) programBase p.image

/-- The value of every other state element after `init` (R272), with the given parameters. -/
def State.init (p : Params) : State :=
  { State.reset with mem := initMemory p, params := p }

/-- Construction (R104, R270): the initial state, or the refusal of an over-long image (R68). -/
def construct (p : Params) : Host.Outcome State Fault Refusal :=
  if p.image.length ≤ maxImage then .next (State.init p) else .refused .imageTooLong

/-- The host's reset (R104, R270, R274): `init` again with the configuration, font and image kept. The host's later
moves and the free values still to come are not the core's and stay (Log 18). -/
def State.restart (s : State) : Host.Outcome State Fault Refusal :=
  match construct s.params with
  | .next t => .next ((t.setInputs s.inputs).setDraws s.draws)
  | .fault r => .fault r
  | .refused r => .refused r

/-! ## The tick of the spec (R99, R100, R106) -/

/-- Phases 1 and 2 (R99). -/
def State.keypadPhase (s : State) (events : List KeyEvent) : State :=
  s.setKeypad (s.keypad.update events)

/-- Phase 3: up to so many slots, ending at a fault (R99, R106). -/
def runBatch : Nat → State → Host.Outcome State Fault Refusal
  | 0, s => .next s
  | n + 1, s =>
    match stepInstr s with
    | .next t => if t.halted then .next t else runBatch n t
    | .fault r => .fault r
    | .refused r => .refused r

/-- `step_tick(s, events)` (R99): a faulting batch has no phase 4 (R106), a halted core does nothing (R245). -/
def stepTick (events : List KeyEvent) (s : State) : Host.Outcome State Fault Refusal :=
  if s.halted then .next s
  else
    match runBatch s.config.ipt.toNat (s.keypadPhase events) with
    | .next t => .next (if t.halted then t else t.decayTimers)
    | .fault r => .fault r
    | .refused r => .refused r

/-! ## The sequencer -/

/-- The end of a tick that reached phase 4 (R99, R220). -/
def State.endTick (s : State) : State := s.decayTimers.setTick .boundary

/-- After a slot, with `left` slots of the batch still to run: a fault ends the tick at once (R106), the last slot is
followed by phase 4. -/
def State.closeSlot (left : Nat) (s : State) : State :=
  if s.halted then s.setTick .boundary
  else if left = 0 then s.endTick
  else s.setTick (.batch left)

/-- One slot of the batch, with what the tick does after it; no slots left is the end of the tick (an IPT of 0, R100).
A halted core inside a batch is no state a run reaches; it goes to the boundary (Log 14). -/
def State.slotInTick (s : State) (slotsLeft : Nat) : Host.Outcome State Fault Refusal :=
  if s.halted then .next (s.setTick .boundary)
  else
    match slotsLeft with
    | 0 => .next s.endTick
    | left + 1 =>
      match stepInstr s with
      | .next t => .next (t.closeSlot left)
      | .fault r => .fault r
      | .refused r => .refused r

/-- A tick begins: phases 1 and 2, then the first slot of the batch (R99). A halted core ignores it (R245). -/
def State.beginTick (s : State) (events : List KeyEvent) : Host.Outcome State Fault Refusal :=
  if s.halted then .next s
  else (s.keypadPhase events).slotInTick s.config.ipt.toNat

/-- The host's move at a boundary (R104). When none is pending the host gives a tick with no events (Log 2). -/
def State.hostMove (s : State) : Host.Outcome State Fault Refusal :=
  match s.inputs with
  | [] => s.beginTick []
  | .tick events :: rest => (s.setInputs rest).beginTick events
  | .reset :: rest => (s.setInputs rest).restart
  | .writeRegister _ _ :: rest => .next (s.setInputs rest)

/-- One step of the whole machine. -/
def State.sequence (s : State) : Host.Outcome State Fault Refusal :=
  match s.tick with
  | .boundary => s.hostMove
  | .batch left => s.slotInTick left

/-! ## Placing an instruction (Log 11) -/

/-- The next step fetches an instruction. -/
def State.nextStepFetches (s : State) : Bool :=
  !s.halted &&
    match s.tick with
    | .batch left => decide (left ≠ 0)
    | .boundary =>
      match s.inputs with
      | [] | .tick _ :: _ => decide (s.config.ipt ≠ 0)
      | .reset :: _ | .writeRegister _ _ :: _ => false

/-- The state itself where its next step fetches, else the same state un-halted and inside a batch. -/
def State.readyToFetch (s : State) : State :=
  if s.nextStepFetches then s else { s with fault := none, tick := .batch 1 }

/-- A `pc` from which a fetch is in range: the state's own, else the entry point (R92, R273). -/
def State.fetchablePc (s : State) : Word :=
  if s.pc.toNat + 1 < memSize then s.pc else BitVec.ofNat 16 programBase

/-- Store a word where the next step fetches its instruction. -/
def State.placeWord (s : State) (w : Word) : State :=
  let t := s.readyToFetch.setPc s.fetchablePc
  t.setMem (t.mem.writeBytes t.pc.toNat [hiByte w, loByte w])

end Sys2Proof.Machine
end

