-- ==== Sys2Proof/Machine/HostPort.lean ====
section
/-! DEFINITION. What the host reads at a tick boundary (spec 40_pipeline.md R102, 10_state.md R34, 46_timers.md R226). -/

namespace Sys2Proof.Machine

/-- FAULT.CODE (R241). -/
def Fault.code : Fault → BitVec 3
  | .unknownOpcode => 1
  | .stackOverflow => 2
  | .stackUnderflow => 3
  | .addressOutOfRange => 4
  | .keyOutOfRange => 5

/-- A Bool as one bit. -/
def bit (b : Bool) : BitVec 1 := BitVec.ofBool b

/-- CONFIG at offset 0x0 (R34), from bit 31 down: IPT, eight reserved zeros, the eight mode bits. -/
def configRegister (c : Config) : BitVec 32 :=
  c.ipt ++ (0#8 ++ bit (decide (c.keyIndex = .mask)) ++ bit (decide (c.keySkipNot = .released))
    ++ bit (decide (c.drawYWrap = .wrap32)) ++ bit (decide (c.timerDecay = .mod60))
    ++ bit c.modernStrLd ++ bit c.modernShift ++ bit c.amigaBehaviour ++ bit c.vfReset : BitVec 16)

/-- FAULT at offset 0x4 (R34): PC, reserved zeros, CODE; all zero when there is no fault. -/
def faultRegister : Option FaultRecord → BitVec 32
  | none => 0
  | some f => f.pc ++ (0#13 ++ f.cause.code : BitVec 16)

/-- FAULT_INFO at offset 0x8 (R34): ADDR, OPCODE; all zero when there is no fault. -/
def faultInfoRegister : Option FaultRecord → BitVec 32
  | none => 0
  | some f => f.addr ++ f.opcode

/-- A read of the host register map (R34). DESIGN CHOICE (Log 12): an offset the map does not list answers none. -/
def State.hostRead (s : State) (offset : Nat) : Option (BitVec 32) :=
  match offset with
  | 0x0 => some (configRegister s.config)
  | 0x4 => some (faultRegister s.fault)
  | 0x8 => some (faultInfoRegister s.fault)
  | _ => none

/-- `sound_active` (R226). -/
def State.soundActive (s : State) : Bool := decide (s.st ≠ 0)

/-- The `display` output: bit `y*64 + x` of 2048 (R102). -/
def State.displayBit (s : State) (k : Fin 2048) : Bool :=
  s.disp.cell ⟨k.val / 64, by omega⟩ ⟨k.val % 64, by omega⟩

/-- The result of a tick (R102). -/
inductive TickResult where
  | ok
  | faulted (f : FaultRecord)
  deriving DecidableEq, Repr

/-- The result of the last tick, as its final state shows it: `Faulted(F)` exactly when the FAULT register holds F
(R243, R245; DEDUCED, Log 13). DESIGN CHOICE (Log 13): where no tick has run since construction or since the host's reset,
R102, R104 and R272 give the output no value, and it reads as Ok, after the reset of a faulted core too. -/
def State.tickResult (s : State) : TickResult :=
  match s.fault with
  | none => .ok
  | some f => .faulted f

end Sys2Proof.Machine
end

