-- ==== Sys2Proof/Machine/Step.lean ====
section
/-! DEFINITION. The one step of the machine, and placing a word where it fetches. -/

namespace Sys2Proof.Machine

/-- One step: the next instruction slot with the tick phases that stand around it, or a move of the host that
runs no slot (Log 1, Log 2). -/
def step (s : State) : Host.Outcome State Fault Refusal := s.sequence

/-- The state with the word of an opcode-table row (its bits above `nbits` zero) where the next step fetches, and that
step made one that fetches (Log 11). -/
def State.withFetchWord (s : State) (nbits w : Nat) : State :=
  s.placeWord (BitVec.ofNat 16 (w % 2 ^ nbits))

end Sys2Proof.Machine
end

