-- ==== Sys2Proof/Safety.lean ====
section
/-! DEFINITION. The terms claims are stated in: frames, invariants, reachable states, safe states. -/

namespace Sys2Proof.Machine

/-! ## Frames -/

/-- The parts of the state beside the general registers, `pc` and memory. -/
inductive Part where
  | i
  | stack
  | disp
  | dt
  | st
  | keypad
  | fault
  | params
  | tick
  | inputs
  | draws
  deriving DecidableEq, Repr

/-- A part is the same in two states. -/
def Part.same (s t : State) : Part → Prop
  | .i => t.i = s.i
  | .stack => t.stack = s.stack
  | .disp => t.disp = s.disp
  | .dt => t.dt = s.dt
  | .st => t.st = s.st
  | .keypad => t.keypad = s.keypad
  | .fault => t.fault = s.fault
  | .params => t.params = s.params
  | .tick => t.tick = s.tick
  | .inputs => t.inputs = s.inputs
  | .draws => t.draws = s.draws

/-- What an instruction leaves unchanged from `s` to `t`: every general register not in `regs`, every byte of memory
whose address is not in `addrs`, every part not in `parts`. It says nothing of `pc`. -/
structure Frame (regs : List Reg) (addrs : List Nat) (parts : List Part) (s t : State) : Prop where
  regs_same : ∀ r, r ∉ regs → t.readV r = s.readV r
  mem_same : ∀ a, a ∉ addrs → t.mem.read a = s.mem.read a
  parts_same : ∀ p, p ∉ parts → p.same s t

/-! ## Results of an instruction

The state `s` of these is that of the execute phase: its `pc` holds `pc0 + 2` (R93). -/

/-- Executing `i` at `s` answers a next state, and `post` holds of it. -/
def Yields (i : Instr) (s : State) (post : State → Prop) : Prop :=
  ∃ t, exec i s = .next t ∧ post t

/-- Executing `i` at `s` answers the state of a precise fault: the FAULT registers name the cause, the instruction's
address and word and ADDR (R243), `pc` is the instruction's address, and nothing else has changed (R244). -/
def TakesFault (i : Instr) (s : State) (cause : Fault) (addr : Word) : Prop :=
  Yields i s fun t =>
    t.fault = some { cause := cause, pc := s.pc - 2, opcode := encode i, addr := addr } ∧
    t.pc = s.pc - 2 ∧ Frame [] [] [.fault] s t

/-- What OR, AND and XOR leave: the result in V[x], and VF zero under VF_RESET (R133 to R135). -/
def LogicPost (x : Reg) (r : Byte) (s t : State) : Prop :=
  t.readV x = (if s.config.vfReset = true ∧ x = 15 then 0 else r) ∧
  (s.config.vfReset = true → t.readV 15 = 0) ∧
  t.pc = s.pc ∧ Frame (if s.config.vfReset then [x, 15] else [x]) [] [] s t

/-- What an operation with a flag leaves: the result in V[x] unless x = F, and the flag in VF, written last (R143). -/
def FlagPost (x : Reg) (result flag : Nat) (s t : State) : Prop :=
  (x ≠ 15 → (t.readV x).toNat = result) ∧ (t.readV 15).toNat = flag ∧ t.pc = s.pc ∧ Frame [x, 15] [] [] s t

/-- The sprite bit that DRW brings to a cell (R182 to R184): the row's byte at `I + (row - y0)`, bit 7 at column `x0`; off
the sprite there is none. -/
def spriteBit (s : State) (x y : Reg) (n : Nat) (row : Fin 32) (col : Fin 64) : Bool :=
  let x0 := (s.readV x).toNat % 64
  let y0 := (s.readV y).toNat % (match s.config.drawYWrap with | .wrap64 => 64 | .wrap32 => 32)
  decide (y0 ≤ row.val ∧ row.val < y0 + n ∧ x0 ≤ col.val ∧ col.val < x0 + 8) &&
    (s.mem.read (s.i.toNat + (row.val - y0))).getLsbD (7 - (col.val - x0))

/-- Two draws of one sprite at one place: the same rows, bytes, configuration and coordinates, the registers that hold
the coordinates free. -/
structure SameDraw (s s' : State) (x y x' y' : Reg) : Prop where
  index : s'.i = s.i
  bytes : ∀ a, s'.mem.read a = s.mem.read a
  wrap : s'.config.drawYWrap = s.config.drawYWrap
  column : s'.readV x' = s.readV x
  row : s'.readV y' = s.readV y

/-- The registers an instruction may write: the column "writes" of R22. -/
def writtenRegs (c : Config) : Instr → List Reg
  | .ldImm x _ | .addImm x _ | .ldReg x _ | .rnd x _ | .ldVxDt x | .ldVxK x => [x]
  | .orReg x _ | .andReg x _ | .xorReg x _ => if c.vfReset then [x, 15] else [x]
  | .addReg x _ | .sub x _ | .subn x _ | .shr x _ | .shl x _ => [x, 15]
  | .drw _ _ _ => [15]
  | .addI _ => if c.amigaBehaviour then [15] else []
  | .ldVxMem x => (List.finRange 16).filter (· ≤ x)
  | .cls | .ret | .jp _ | .call _ | .seImm _ _ | .sneImm _ _ | .seReg _ _ | .sneReg _ _ | .ldI _ | .jpV0 _
  | .skp _ | .sknp _ | .ldDtVx _ | .ldStVx _ | .ldF _ | .ldB _ | .ldMemVx _ => []

/-- `n` slots run one after another from the first state to the second, none of them faulting. -/
def RunsSlots : Nat → State → State → Prop
  | 0, a, b => b = a
  | n + 1, a, b => ∃ m, stepInstr a = .next m ∧ m.fault = none ∧ RunsSlots n m b

/-! ## Invariants -/

/-- Memory is in its canonical form and the image kept for a reset fits (R50, R68). -/
structure State.MemInv (s : State) : Prop where
  mem_wf : s.mem.wf = true
  image_fits : s.params.image.length ≤ maxImage

/-- `pc` never exceeds 0x10FE (R24), with the bound on return addresses that this needs. -/
structure State.PcInv (s : State) : Prop where
  pc_le : s.pc.toNat ≤ 0x10FE
  entries_le : ∀ k : Fin 16, (s.stack.entries[k]).toNat ≤ 0x1000

/-- A valid PendingKeyWait record is of a key whose press age it holds, and no key was pressed later (R32, R201). -/
def Keypad.PendingFits (k : Keypad) : Prop :=
  k.pending.valid = true →
    k.pressAge[k.pending.key] = k.pending.age ∧
    ∀ j : Key, k.pending.age.toNat ≤ (k.pressAge[j]).toNat

/-- The keypad block's record fits its ages. -/
def State.PendingInv (s : State) : Prop := s.keypad.PendingFits

/-- Which words and which ADDR values a cause comes with (R241, columns "raised by" and "ADDR field"). -/
def FaultRecord.fits (f : FaultRecord) : Prop :=
  match f.cause with
  | .unknownOpcode => decode f.opcode = .error (.unknownOpcode f.opcode) ∧ f.addr = 0
  | .stackOverflow => (∃ nnn, decode f.opcode = .ok (.call nnn)) ∧ f.addr = 0
  | .stackUnderflow => decode f.opcode = .ok .ret ∧ f.addr = 0
  | .addressOutOfRange =>
    (f.opcode = 0 ∨ (∃ x y n, decode f.opcode = .ok (.drw x y n)) ∨ (∃ x, decode f.opcode = .ok (.ldB x)) ∨
      (∃ x, decode f.opcode = .ok (.ldMemVx x)) ∨ (∃ x, decode f.opcode = .ok (.ldVxMem x))) ∧
    0xFFF < f.addr.toNat
  | .keyOutOfRange =>
    ((∃ x, decode f.opcode = .ok (.skp x)) ∨ (∃ x, decode f.opcode = .ok (.sknp x))) ∧
    0xF < f.addr.toNat ∧ f.addr.toNat ≤ 0xFF

/-- The FAULT registers of a faulted core name the instruction at `pc` and fit the table of R241 (R243, R244). -/
def State.FaultInv (s : State) : Prop := ∀ f, s.fault = some f → f.pc = s.pc ∧ f.fits

/-- Inside a batch the core is not halted and between 1 and IPT slots are left (R99, R106). -/
def State.TickInv (s : State) : Prop :=
  match s.tick with
  | .boundary => True
  | .batch left => s.fault = none ∧ 1 ≤ left ∧ left ≤ s.config.ipt.toNat

/-- All of them. -/
structure State.Inv (s : State) : Prop where
  memory : s.MemInv
  pc : s.PcInv
  pending : s.PendingInv
  fault : s.FaultInv
  tick : s.TickInv

/-! ## Runs -/

/-- A state some run reaches: after a construction the host accepts (R104), whatever its moves and the free
values are, by any number of steps. -/
inductive Reachable : State → Prop where
  | start (p : Params) (s : State) (moves : List HostInput) (d : Draws) (h : construct p = .next s) :
      Reachable ((s.setInputs moves).setDraws d)
  | step (s t : State) (h : Reachable s) (hs : Machine.step s = .next t) : Reachable t

/-- A safe state: no fault has been taken since reset (R245). -/
def State.Safe (s : State) : Prop := s.fault = none

end Sys2Proof.Machine
end

