-- ==== Sys2Proof/Certificates/Slice0/Obligations.lean ====
section
/-! DEFINITION. The statements for the provers. In a statement about exec the state `s` is that of the execute phase: `s.pc`
is `pc0 + 2` (R93), so `s.pc - 2` is the instruction's own address. -/

open Sys2Proof Sys2Proof.Machine

/-! ## Encoding (30_encoding.md) -/

/-- Decode and encode agree (R74, R75): a well-formed instruction is read back from its word with every operand. -/
def Obligations.EncodeThenDecode : Prop :=
  ∀ i : Instr, i.wellFormed = true → decode (encode i) = .ok i

/-- No bit of an accepted word is dropped (R79: "No 'don't care' bit exists in any form"). -/
def Obligations.DecodeThenEncode : Prop :=
  ∀ (w : Word) (i : Instr), decode w = .ok i → encode i = w ∧ i.wellFormed = true

/-- The decoder rejects exactly the words that match no row of the opcode map, by name (R74, R77, R79). -/
def Obligations.RejectsExactlyTheUnlistedWords : Prop :=
  ∀ w : Word,
    ((∀ r ∈ opcodeRows, r.accepts w = false) → decode w = .error (.unknownOpcode w)) ∧
    ((∃ r ∈ opcodeRows, r.accepts w = true) →
      ∃ i, decode w = .ok i ∧ ∃ r, opcodeRows[i.rowIndex]? = some r ∧ r.accepts w = true)

/-- The map has 34 rows and no two of them match the same word (R76). -/
def Obligations.OpcodeRowsAreDisjoint : Prop :=
  opcodeRows.length = 34 ∧
  ∀ r ∈ opcodeRows, ∀ r' ∈ opcodeRows, ∀ w : Word, r.accepts w = true → r'.accepts w = true → r = r'

/-- Words written out from the patterns of R75, family by family, decode to their instructions (R84 for the first
four). -/
def Obligations.WrittenOutWordsDecode : Prop :=
  decode 0b0000000011100000#16 = .ok .cls ∧
  decode 0b0110000000000101#16 = .ok (.ldImm 0 0x05) ∧
  decode 0b0111000000000101#16 = .ok (.addImm 0 0x05) ∧
  decode 0b0001001000000000#16 = .ok (.jp 0x200) ∧
  decode 0b1000000100100110#16 = .ok (.shr 1 2) ∧
  decode 0b1111010101010101#16 = .ok (.ldMemVx 5) ∧
  decode 0b1101000100101111#16 = .ok (.drw 1 2 15) ∧
  decode 0b1110001010100001#16 = .ok (.sknp 2) ∧
  decode 0b1111001100010101#16 = .ok (.ldDtVx 3)

/-! ## The slot (40_pipeline.md section 1, 60_exceptions.md) -/

/-- A step runs the decoded instruction (R90, R93, R95). Inside a batch it is `exec` at the state with `pc` advanced,
then the end of the slot. At a boundary the tick's keypad phases stand before it (R99), with the batch the host
gives, or, the model's own choice of Log 2, no events when no move is pending. -/
def Obligations.StepRunsDecodedInstruction : Prop :=
  ∀ (s : State) (i : Instr) (left : Nat), s.fault = none → s.pc.toNat ≤ 0xFFE →
    decode (wordOfBytes (s.mem.read s.pc.toNat) (s.mem.read (s.pc.toNat + 1))) = .ok i →
    (s.tick = .batch (left + 1) →
      ∃ t, exec i (s.setPc (s.pc + 2)) = .next t ∧ step s = .next (t.closeSlot left)) ∧
    (∀ (events : List KeyEvent) (rest : List HostInput),
      s.tick = .boundary → s.config.ipt.toNat = left + 1 →
      (s.inputs = .tick events :: rest ∨ (s.inputs = [] ∧ events = [] ∧ rest = [])) →
      ∃ t, exec i (((s.setInputs rest).keypadPhase events).setPc (s.pc + 2)) = .next t ∧
        step s = .next (t.closeSlot left))

/-- Every `pc0` from 0xFFF up faults at fetch, with the lowest bad address, and every other is fetched (R92). -/
def Obligations.FetchRangeIsChecked : Prop :=
  ∀ s : State, s.fault = none →
    (0xFFF ≤ s.pc.toNat →
      ∃ t, stepInstr s = .next t ∧
        t.fault = some { cause := .addressOutOfRange, pc := s.pc, opcode := 0,
                         addr := if 0xFFF < s.pc.toNat then s.pc else s.pc + 1 } ∧
        t.pc = s.pc ∧ Frame [] [] [.fault] s t) ∧
    (s.pc.toNat ≤ 0xFFE →
      s.fetch = .ok (s.mem.read s.pc.toNat ++ s.mem.read (s.pc.toNat + 1)))

/-- A fetched word that matches no row raises UnknownOpcode with the word and its address, and changes nothing else
(R77, R94). -/
def Obligations.IllegalWordsFault : Prop :=
  ∀ (s : State) (w : Word), s.fault = none → s.fetch = .ok w → (∀ r ∈ opcodeRows, r.accepts w = false) →
    ∃ t, stepInstr s = .next t ∧
      t.fault = some { cause := .unknownOpcode, pc := s.pc, opcode := w, addr := 0 } ∧
      t.pc = s.pc ∧ Frame [] [] [.fault] s t

/-- Faults are precise (R244): whichever instruction or phase raises one, every element of the state but the FAULT
registers is as it was before the slot, `pc` included, and FAULT.PC is that `pc`. -/
def Obligations.FaultsArePrecise : Prop :=
  ∀ (s t : State) (f : FaultRecord), s.fault = none → stepInstr s = .next t → t.fault = some f →
    { t with fault := none } = s ∧ f.pc = s.pc

/-- A halted core changes no state, in a slot or in a tick, and keeps its first fault as the result, until the host resets
it (R97, R245). Three things here are the model's: the result is read off FAULT (DEDUCED, Log 13) and reads as Ok after the
reset (DESIGN CHOICE, Log 13), and a halted core inside a batch, which no run reaches, steps to the boundary (DESIGN CHOICE,
Log 14). A step changes at most the model's own record of the tick and of the host's moves. -/
def Obligations.HaltedCoreIsFrozen : Prop :=
  ∀ (s : State) (f : FaultRecord), s.fault = some f →
    s.tickResult = .faulted f ∧
    stepInstr s = .next s ∧
    (∀ events, stepTick events s = .next s) ∧
    ((s.tick = .boundary → ∀ rest, s.inputs ≠ .reset :: rest) →
      ∃ t, step s = .next t ∧ t.pc = s.pc ∧ Frame [] [] [.tick, .inputs] s t) ∧
    (s.tick = .boundary → s.params.image.length ≤ 3584 → ∀ rest, s.inputs = .reset :: rest →
      ∃ t, step s = .next t ∧ t.fault = none ∧ t.tickResult = .ok)

/-- Every step of a state whose image fits answers a next state: no instruction, fault or host move stops the machine.
The model's reading of a fault as a next state is Log 3. -/
def Obligations.EveryStepHasANextState : Prop :=
  ∀ s : State, s.params.image.length ≤ maxImage → ∃ t, step s = .next t

/-! ## Control flow (41_control_flow.md) -/

/-- JP and JP V0 set `pc` to the absolute target, unchecked, and change nothing else (R112, R113). -/
def Obligations.JumpsSetPc : Prop :=
  ∀ (nnn : Addr12) (s : State),
    decode (0x1#4 ++ nnn) = .ok (.jp nnn) ∧
    Yields (.jp nnn) s (fun t => t.pc.toNat = nnn.toNat ∧ Frame [] [] [] s t) ∧
    decode (0xB#4 ++ nnn) = .ok (.jpV0 nnn) ∧
    Yields (.jpV0 nnn) s (fun t => t.pc.toNat = nnn.toNat + (s.readV 0).toNat ∧ Frame [] [] [] s t)

/-- CALL pushes the return address and jumps, and faults StackOverflow when the stack is full (R111). -/
def Obligations.CallPushesReturnAddress : Prop :=
  ∀ (nnn : Addr12) (s : State),
    decode (0x2#4 ++ nnn) = .ok (.call nnn) ∧
    (s.stack.sp.val < 16 →
      Yields (.call nnn) s fun t =>
        t.stack.sp.val = s.stack.sp.val + 1 ∧
        (∀ k : Fin 16, t.stack.entries[k] = if k.val = s.stack.sp.val then s.pc else s.stack.entries[k]) ∧
        t.pc.toNat = nnn.toNat ∧ Frame [] [] [.stack] s t) ∧
    (s.stack.sp = 16 → TakesFault (.call nnn) s .stackOverflow 0)

/-- RET pops the newest entry into `pc` as it is, and faults StackUnderflow when the stack is empty (R110). -/
def Obligations.ReturnPopsIntoPc : Prop :=
  decode 0x00EE#16 = .ok .ret ∧
  ∀ s : State,
    (∀ k : Fin 16, s.stack.sp.val = k.val + 1 →
      Yields .ret s fun t =>
        t.pc = s.stack.entries[k] ∧ t.stack.sp.val = k.val ∧
        (∀ j : Fin 16, t.stack.entries[j] = s.stack.entries[j]) ∧ Frame [] [] [.stack] s t) ∧
    (s.stack.sp = 0 → TakesFault .ret s .stackUnderflow 0)

/-- A RET at any later state with the stack that a CALL left goes to the instruction after the CALL, and the depth and
the older entries are as before it (R110, R111, 95_test_vectors.md L1.3). -/
def Obligations.ReturnUndoesCall : Prop :=
  ∀ (nnn : Addr12) (s : State), s.stack.sp.val < 16 →
    Yields (.call nnn) s fun t =>
      ∀ u : State, u.stack = t.stack →
        Yields .ret u fun v =>
          v.pc = s.pc ∧ v.stack.sp = s.stack.sp ∧
          (∀ k : Fin 16, k.val < s.stack.sp.val → v.stack.entries[k] = s.stack.entries[k])

/-- The four skips on registers add 2 more to `pc` exactly when their condition holds; the words with another low nibble
are UnknownOpcode (R114 to R117). -/
def Obligations.SkipsCompareAndSkip : Prop :=
  ∀ (x y : Reg) (nn : Byte) (s : State),
    decode (0x3#4 ++ regBits x ++ nn) = .ok (.seImm x nn) ∧
    Yields (.seImm x nn) s
      (fun t => t.pc = (if s.readV x = nn then s.pc + 2 else s.pc) ∧ Frame [] [] [] s t) ∧
    decode (0x4#4 ++ regBits x ++ nn) = .ok (.sneImm x nn) ∧
    Yields (.sneImm x nn) s
      (fun t => t.pc = (if s.readV x = nn then s.pc else s.pc + 2) ∧ Frame [] [] [] s t) ∧
    decode (0x5#4 ++ regBits x ++ regBits y ++ 0x0#4) = .ok (.seReg x y) ∧
    Yields (.seReg x y) s
      (fun t => t.pc = (if s.readV x = s.readV y then s.pc + 2 else s.pc) ∧ Frame [] [] [] s t) ∧
    decode (0x9#4 ++ regBits x ++ regBits y ++ 0x0#4) = .ok (.sneReg x y) ∧
    Yields (.sneReg x y) s
      (fun t => t.pc = (if s.readV x = s.readV y then s.pc else s.pc + 2) ∧ Frame [] [] [] s t) ∧
    (∀ n : BitVec 4, n ≠ 0 →
      decode (0x5#4 ++ regBits x ++ regBits y ++ n) =
        .error (.unknownOpcode (0x5#4 ++ regBits x ++ regBits y ++ n)) ∧
      decode (0x9#4 ++ regBits x ++ regBits y ++ n) =
        .error (.unknownOpcode (0x9#4 ++ regBits x ++ regBits y ++ n)))

/-! ## Registers and ALU (42_alu.md) -/

/-- LD immediate, ADD immediate (wrapping, no flag) and LD register write V[x] and nothing else (R130 to R132). -/
def Obligations.LoadsAndAddImmediate : Prop :=
  ∀ (x y : Reg) (nn : Byte) (s : State),
    decode (0x6#4 ++ regBits x ++ nn) = .ok (.ldImm x nn) ∧
    Yields (.ldImm x nn) s (fun t => t.readV x = nn ∧ t.pc = s.pc ∧ Frame [x] [] [] s t) ∧
    decode (0x7#4 ++ regBits x ++ nn) = .ok (.addImm x nn) ∧
    Yields (.addImm x nn) s
      (fun t => (t.readV x).toNat = ((s.readV x).toNat + nn.toNat) % 256 ∧ t.pc = s.pc ∧ Frame [x] [] [] s t) ∧
    decode (0x8#4 ++ regBits x ++ regBits y ++ 0x0#4) = .ok (.ldReg x y) ∧
    Yields (.ldReg x y) s (fun t => t.readV x = s.readV y ∧ t.pc = s.pc ∧ Frame [x] [] [] s t)

/-- OR, AND and XOR, with and without VF_RESET, VF as an operand or a destination included (R133 to R135). -/
def Obligations.LogicOpsAndVfReset : Prop :=
  ∀ (x y : Reg) (s : State),
    decode (0x8#4 ++ regBits x ++ regBits y ++ 0x1#4) = .ok (.orReg x y) ∧
    Yields (.orReg x y) s (LogicPost x (s.readV x ||| s.readV y) s) ∧
    decode (0x8#4 ++ regBits x ++ regBits y ++ 0x2#4) = .ok (.andReg x y) ∧
    Yields (.andReg x y) s (LogicPost x (s.readV x &&& s.readV y) s) ∧
    decode (0x8#4 ++ regBits x ++ regBits y ++ 0x3#4) = .ok (.xorReg x y) ∧
    Yields (.xorReg x y) s (LogicPost x (s.readV x ^^^ s.readV y) s)

/-- ADD with carry: VF is 1 exactly when the unsigned sum exceeds 8 bits (R136). -/
def Obligations.AddSetsCarry : Prop :=
  ∀ (x y : Reg) (s : State),
    decode (0x8#4 ++ regBits x ++ regBits y ++ 0x4#4) = .ok (.addReg x y) ∧
    Yields (.addReg x y) s
      (FlagPost x (((s.readV x).toNat + (s.readV y).toNat) % 256)
        (if (s.readV x).toNat + (s.readV y).toNat > 0xFF then 1 else 0) s)

/-- SUB and SUBN: VF is 1 exactly when there is no borrow (R137, R139). -/
def Obligations.SubtractSetsNotBorrow : Prop :=
  ∀ (x y : Reg) (s : State),
    decode (0x8#4 ++ regBits x ++ regBits y ++ 0x5#4) = .ok (.sub x y) ∧
    Yields (.sub x y) s
      (FlagPost x (((s.readV x).toNat + 256 - (s.readV y).toNat) % 256)
        (if (s.readV x).toNat ≥ (s.readV y).toNat then 1 else 0) s) ∧
    decode (0x8#4 ++ regBits x ++ regBits y ++ 0x7#4) = .ok (.subn x y) ∧
    Yields (.subn x y) s
      (FlagPost x (((s.readV y).toNat + 256 - (s.readV x).toNat) % 256)
        (if (s.readV y).toNat ≥ (s.readV x).toNat then 1 else 0) s)

/-- SHR and SHL by one: the source is V[y], or V[x] under MODERN_SHIFT_BEHAVIOUR, and VF takes the bit shifted out of it
(R138, R140). -/
def Obligations.ShiftsShiftTheirSource : Prop :=
  ∀ (x y : Reg) (s : State) (src : Nat),
    src = (if s.config.modernShift then s.readV x else s.readV y).toNat →
    decode (0x8#4 ++ regBits x ++ regBits y ++ 0x6#4) = .ok (.shr x y) ∧
    Yields (.shr x y) s (FlagPost x (src / 2) (src % 2) s) ∧
    decode (0x8#4 ++ regBits x ++ regBits y ++ 0xE#4) = .ok (.shl x y) ∧
    Yields (.shl x y) s (FlagPost x (src * 2 % 256) (src / 128) s)

/-- RND masks the next random byte and consumes one draw, whatever the byte is (R101, R141). The byte is a free value, so
this holds for every sequence of draws; the counter is the model's own (Log 6). -/
def Obligations.RandomByteIsMasked : Prop :=
  ∀ (x : Reg) (nn : Byte) (s : State),
    decode (0xC#4 ++ regBits x ++ nn) = .ok (.rnd x nn) ∧
    Yields (.rnd x nn) s fun t =>
      t.readV x = Config.randByte s.draws.random &&& nn ∧
      t.draws = { s.draws with random := s.draws.random + 1 } ∧ t.pc = s.pc ∧ Frame [x] [] [.draws] s t

/-! ## Index register and memory (43_index_memory.md) -/

/-- LD I and LD F (V[x] not masked) write `I` and nothing else (R160, R162). -/
def Obligations.IndexLoads : Prop :=
  ∀ (x : Reg) (nnn : Addr12) (s : State),
    decode (0xA#4 ++ nnn) = .ok (.ldI nnn) ∧
    Yields (.ldI nnn) s (fun t => t.i.toNat = nnn.toNat ∧ t.pc = s.pc ∧ Frame [] [] [.i] s t) ∧
    decode (0xF#4 ++ regBits x ++ 0x29#8) = .ok (.ldF x) ∧
    Yields (.ldF x) s (fun t => t.i.toNat = (s.readV x).toNat * 5 ∧ t.pc = s.pc ∧ Frame [] [] [.i] s t)

/-- ADD I wraps at 16 bits and writes VF under AMIGA_BEHAVIOUR only, to 1 exactly when the exact sum is beyond 0x0FFF
(R161). -/
def Obligations.AddToIndex : Prop :=
  ∀ (x : Reg) (s : State),
    decode (0xF#4 ++ regBits x ++ 0x1E#8) = .ok (.addI x) ∧
    Yields (.addI x) s fun t =>
      t.i.toNat = (s.i.toNat + (s.readV x).toNat) % 65536 ∧
      (s.config.amigaBehaviour = true →
        (t.readV 15).toNat = if s.i.toNat + (s.readV x).toNat > 0x0FFF then 1 else 0) ∧
      t.pc = s.pc ∧ Frame (if s.config.amigaBehaviour then [15] else []) [] [.i] s t

/-- LD B stores the three decimal digits at `I`, or faults with no byte written (R163). Memory is in its canonical form:
`MemInvIsKept` says every step keeps it. -/
def Obligations.BcdStoresDigits : Prop :=
  ∀ (x : Reg) (s : State), s.mem.wf = true →
    decode (0xF#4 ++ regBits x ++ 0x33#8) = .ok (.ldB x) ∧
    (s.i.toNat + 3 ≤ 4096 →
      Yields (.ldB x) s fun t =>
        (t.mem.read s.i.toNat).toNat = (s.readV x).toNat / 100 ∧
        (t.mem.read (s.i.toNat + 1)).toNat = (s.readV x).toNat / 10 % 10 ∧
        (t.mem.read (s.i.toNat + 2)).toNat = (s.readV x).toNat % 10 ∧
        t.pc = s.pc ∧ Frame [] (s.indexAddrs 3) [] s t) ∧
    (4096 < s.i.toNat + 3 →
      TakesFault (.ldB x) s .addressOutOfRange (if 0xFFF < s.i.toNat then s.i else 0x1000))

/-- LD [I] stores V0 to V[x] at `I` and moves `I` past them unless MODERN_STR_LD_BEHAVIOUR, or faults with nothing
written (R164). -/
def Obligations.StoreRegisters : Prop :=
  ∀ (x : Reg) (s : State), s.mem.wf = true →
    decode (0xF#4 ++ regBits x ++ 0x55#8) = .ok (.ldMemVx x) ∧
    (s.i.toNat + x.val + 1 ≤ 4096 →
      Yields (.ldMemVx x) s fun t =>
        (∀ k : Reg, k ≤ x → t.mem.read (s.i.toNat + k.val) = s.readV k) ∧
        t.i.toNat = (if s.config.modernStrLd then s.i.toNat else s.i.toNat + x.val + 1) ∧
        t.pc = s.pc ∧ Frame [] (s.indexAddrs (x.val + 1)) [.i] s t) ∧
    (4096 < s.i.toNat + x.val + 1 →
      TakesFault (.ldMemVx x) s .addressOutOfRange (if 0xFFF < s.i.toNat then s.i else 0x1000))

/-- LD Vx, [I] loads V0 to V[x] from memory at `I` and moves `I` past them unless MODERN_STR_LD_BEHAVIOUR, or faults with no
register changed (R165). -/
def Obligations.LoadRegisters : Prop :=
  ∀ (x : Reg) (s : State),
    decode (0xF#4 ++ regBits x ++ 0x65#8) = .ok (.ldVxMem x) ∧
    (s.i.toNat + x.val + 1 ≤ 4096 →
      Yields (.ldVxMem x) s fun t =>
        (∀ k : Reg, k ≤ x → t.readV k = s.mem.read (s.i.toNat + k.val)) ∧
        (∀ k : Reg, x < k → t.readV k = s.readV k) ∧
        t.i.toNat = (if s.config.modernStrLd then s.i.toNat else s.i.toNat + x.val + 1) ∧
        t.pc = s.pc ∧ Frame (List.finRange 16) [] [.i] s t) ∧
    (4096 < s.i.toNat + x.val + 1 →
      TakesFault (.ldVxMem x) s .addressOutOfRange (if 0xFFF < s.i.toNat then s.i else 0x1000))

/-- Registers stored by LD [I] come back by LD Vx, [I] from the same `I`, whatever the registers hold by then. -/
def Obligations.StoreThenLoadRestores : Prop :=
  ∀ (x : Reg) (s : State), s.mem.wf = true → s.i.toNat + x.val + 1 ≤ 4096 →
    Yields (.ldMemVx x) s fun t =>
      ∀ u : State, u.mem = t.mem → u.i = s.i →
        Yields (.ldVxMem x) u fun v => ∀ k : Reg, k ≤ x → v.readV k = s.readV k

/-- Every address of a multi-byte access is checked before any change, clipped sprite rows included, and the lowest bad
one is reported (R60). -/
def Obligations.LowestBadAddressFaults : Prop :=
  ∀ (i : Instr) (count : Nat) (s : State),
    ((∃ x, i = .ldB x) ∧ count = 3) ∨ (∃ x : Reg, (i = .ldMemVx x ∨ i = .ldVxMem x) ∧ count = x.val + 1) ∨
      (∃ x y, i = .drw x y count) →
    ∀ a : Nat, 0xFFF < a → s.i.toNat ≤ a → a < s.i.toNat + count →
      (∀ b : Nat, s.i.toNat ≤ b → b < a → b ≤ 0xFFF) →
      TakesFault i s .addressOutOfRange (BitVec.ofNat 16 a)

/-- Every later fetch of a byte that LD B or LD [I] has stored sees it, the very next fetch included (there `u` is the
state the instruction leaves), at whichever end of the fetched word it stands (R64). -/
def Obligations.FetchSeesStores : Prop :=
  ∀ (x : Reg) (s : State), s.mem.wf = true →
    (s.i.toNat + 3 ≤ 4096 →
      Yields (.ldB x) s fun t =>
        ∀ (u : State) (w : Word) (k : Nat), k < 3 →
          (∀ a ∈ s.indexAddrs 3, u.mem.read a = t.mem.read a) → u.fetch = .ok w →
          (u.pc.toNat = s.i.toNat + k → (hiByte w).toNat = (s.readV x).toNat / 10 ^ (2 - k) % 10) ∧
          (u.pc.toNat + 1 = s.i.toNat + k → (loByte w).toNat = (s.readV x).toNat / 10 ^ (2 - k) % 10)) ∧
    (s.i.toNat + x.val + 1 ≤ 4096 →
      Yields (.ldMemVx x) s fun t =>
        ∀ (u : State) (w : Word) (k : Reg), k ≤ x →
          (∀ a ∈ s.indexAddrs (x.val + 1), u.mem.read a = t.mem.read a) → u.fetch = .ok w →
          (u.pc.toNat = s.i.toNat + k.val → hiByte w = s.readV k) ∧
          (u.pc.toNat + 1 = s.i.toNat + k.val → loByte w = s.readV k))

/-! ## Display (44_display.md) -/

/-- CLS turns every cell off and changes nothing else (R180). -/
def Obligations.ClsClearsDisplay : Prop :=
  decode 0x00E0#16 = .ok .cls ∧
  ∀ s : State,
    Yields .cls s fun t =>
      (∀ (row : Fin 32) (col : Fin 64), t.disp.cell row col = false) ∧ t.pc = s.pc ∧ Frame [] [] [.disp] s t

/-- DRW XORs each visible cell with the sprite's bit, clips at the right and bottom edges, and sets VF exactly when a set
cell was hit; it faults with display and VF unchanged when any of its n rows lies beyond 0xFFF (R181, R183, R185). -/
def Obligations.DrawXorsEachCell : Prop :=
  ∀ (x y : Reg) (n : Nat) (s : State),
    (n ≤ 15 → decode (0xD#4 ++ regBits x ++ regBits y ++ BitVec.ofNat 4 n) = .ok (.drw x y n)) ∧
    (n = 0 ∨ s.i.toNat + n ≤ 4096 →
      Yields (.drw x y n) s fun t =>
        (∀ (row : Fin 32) (col : Fin 64),
          t.disp.cell row col = (s.disp.cell row col ^^ spriteBit s x y n row col)) ∧
        ((t.readV 15 = 1 ∧ ∃ row col, s.disp.cell row col = true ∧ spriteBit s x y n row col = true) ∨
          (t.readV 15 = 0 ∧ ∀ row col, s.disp.cell row col = true → spriteBit s x y n row col = false)) ∧
        t.pc = s.pc ∧ Frame [15] [] [.disp] s t) ∧
    (0 < n → 4096 < s.i.toNat + n →
      TakesFault (.drw x y n) s .addressOutOfRange (if 0xFFF < s.i.toNat then s.i else 0x1000))

/-- A step changes the display only where it runs CLS or DRW, or takes the host's reset; and a second draw of the same
sprite at the same place restores the grid exactly (R186). -/
def Obligations.DrawTwiceRestoresDisplay : Prop :=
  (∀ (s t : State), step s = .next t → t.disp ≠ s.disp →
    (s.tick = .boundary ∧ ∃ rest, s.inputs = .reset :: rest) ∨
    ∃ i, decode (wordOfBytes (s.mem.read s.pc.toNat) (s.mem.read (s.pc.toNat + 1))) = .ok i ∧
      (i = .cls ∨ ∃ x y n, i = .drw x y n)) ∧
  ∀ (x y x' y' : Reg) (n : Nat) (s s' : State),
    Yields (.drw x y n) s fun t =>
      SameDraw s s' x y x' y' → s'.disp = t.disp →
        Yields (.drw x' y' n) s' fun u => u.disp = s.disp

/-- The drawing law (R187): a sprite with a visible set bit, drawn where the grid is off, sets its cells with VF = 0; drawn
again it clears them with VF = 1; drawn once more it sets them with VF = 0. -/
def Obligations.RedrawTogglesAndCollides : Prop :=
  ∀ (x y x' y' x'' y'' : Reg) (n : Nat) (s s' s'' : State),
    s.i.toNat + n ≤ 4096 →
    (∃ row col, spriteBit s x y n row col = true) →
    (∀ row col, spriteBit s x y n row col = true → s.disp.cell row col = false) →
    Yields (.drw x y n) s fun t =>
      t.readV 15 = 0 ∧
      (∀ row col, spriteBit s x y n row col = true → t.disp.cell row col = true) ∧
      (SameDraw s s' x y x' y' → s'.disp = t.disp →
        Yields (.drw x' y' n) s' fun t' =>
          t'.readV 15 = 1 ∧
          (∀ row col, spriteBit s x y n row col = true → t'.disp.cell row col = false) ∧
          (SameDraw s s'' x y x'' y'' → s''.disp = t'.disp →
            Yields (.drw x'' y'' n) s'' fun t'' => t''.readV 15 = 0 ∧ t''.disp = t.disp))

/-! ## Who writes what (10_state.md) -/

/-- Apart from a fault's own registers, each part of the state is written only by the instructions the spec names for it:
`I` (R26), the stack (R28), memory (R51), the display (R186), DT and ST (R30), the keypad block (R31, R32), the random
draws (R101); no instruction writes the parameters (R274) or the model's record of the tick and the host's moves. -/
def Obligations.OnlyNamedInstructionsWrite : Prop :=
  ∀ (i : Instr) (s t : State), exec i s = .next t →
    (t.i ≠ s.i → (∃ nnn, i = .ldI nnn) ∨ ∃ x, i = .addI x ∨ i = .ldF x ∨ i = .ldMemVx x ∨ i = .ldVxMem x) ∧
    (t.stack ≠ s.stack → i = .ret ∨ ∃ nnn, i = .call nnn) ∧
    ((∃ a, t.mem.read a ≠ s.mem.read a) → ∃ x, i = .ldB x ∨ i = .ldMemVx x) ∧
    (t.disp ≠ s.disp → i = .cls ∨ ∃ x y n, i = .drw x y n) ∧
    (t.dt ≠ s.dt → ∃ x, i = .ldDtVx x) ∧
    (t.st ≠ s.st → ∃ x, i = .ldStVx x) ∧
    (t.keypad ≠ s.keypad → ∃ x, i = .ldVxK x) ∧
    (t.draws ≠ s.draws → ∃ x nn, i = .rnd x nn) ∧
    t.params = s.params ∧ t.tick = s.tick ∧ t.inputs = s.inputs

/-- No instruction changes a register outside its row of R22's table, whatever it computes and whether or not it faults. -/
def Obligations.RegisterWritesFollowTheTable : Prop :=
  ∀ (i : Instr) (s t : State), exec i s = .next t →
    ∀ r : Reg, t.readV r ≠ s.readV r → r ∈ writtenRegs s.config i

/-! ## Keypad (45_keypad.md) -/

/-- SKP and SKNP skip on the age of the key V[x] names: a key operand above 0xF is masked, or faults KeyOutOfRange, as
KEY_INDEX_MODE says (R206 to R208). -/
def Obligations.KeySkipsFollowAges : Prop :=
  ∀ (x : Reg) (s : State),
    decode (0xE#4 ++ regBits x ++ 0x9E#8) = .ok (.skp x) ∧
    decode (0xE#4 ++ regBits x ++ 0xA1#8) = .ok (.sknp x) ∧
    (∀ k : Key, (s.readV x).toNat = k.val ∨
        (0xF < (s.readV x).toNat ∧ s.config.keyIndex = .mask ∧ (s.readV x).toNat % 16 = k.val) →
      Yields (.skp x) s
        (fun t => t.pc = (if (s.keypad.pressAge[k]).toNat ≤ 3 then s.pc + 2 else s.pc) ∧ Frame [] [] [] s t) ∧
      (s.config.keySkipNot = .notPressed → Yields (.sknp x) s
        (fun t => t.pc = (if (s.keypad.pressAge[k]).toNat ≤ 3 then s.pc else s.pc + 2) ∧ Frame [] [] [] s t)) ∧
      (s.config.keySkipNot = .released → Yields (.sknp x) s
        (fun t => t.pc = (if (s.keypad.releaseAge[k]).toNat ≤ 3 then s.pc + 2 else s.pc) ∧ Frame [] [] [] s t))) ∧
    (0xF < (s.readV x).toNat → s.config.keyIndex = .fault →
      TakesFault (.skp x) s .keyOutOfRange ((s.readV x).setWidth 16) ∧
      TakesFault (.sknp x) s .keyOutOfRange ((s.readV x).setWidth 16))

/-- LD Vx, K completes exactly on a valid record of age 0, whose key it takes and which it consumes; else it leaves `pc` at
its own address and nothing else changed (R209). -/
def Obligations.KeyWaitTakesFreshPress : Prop :=
  ∀ (x : Reg) (s : State),
    decode (0xF#4 ++ regBits x ++ 0x0A#8) = .ok (.ldVxK x) ∧
    (s.keypad.pending.valid = true → s.keypad.pending.age = 0 →
      Yields (.ldVxK x) s fun t =>
        (t.readV x).toNat = s.keypad.pending.key.val ∧
        t.keypad = { s.keypad with pending := { s.keypad.pending with valid := false } } ∧
        t.pc = s.pc ∧ Frame [x] [] [.keypad] s t) ∧
    (s.keypad.pending.valid = false ∨ s.keypad.pending.age ≠ 0 →
      Yields (.ldVxK x) s fun t => t.pc = s.pc - 2 ∧ Frame [] [] [] s t)

/-- A tick that finds the core at a blocked LD Vx, K leaves, for every IPT, what the keypad phases and the timer decay alone
would leave (R210). -/
def Obligations.BlockedKeyWaitTickIsIdle : Prop :=
  ∀ (x : Reg) (s : State) (events : List KeyEvent), s.fault = none → s.pc.toNat ≤ 0xFFE →
    decode (wordOfBytes (s.mem.read s.pc.toNat) (s.mem.read (s.pc.toNat + 1))) = .ok (.ldVxK x) →
    ((s.keypad.update events).pending.valid = false ∨ (s.keypad.update events).pending.age ≠ 0) →
    stepTick events s = .next (s.keypadPhase events).decayTimers

/-- Phases 1 and 2 of a tick (R200 to R202): every age grows by one up to 255, an event sets its key's age to 0 whatever its
place in the batch, and the last press of the batch sets the PendingKeyWait record, which otherwise ages. -/
def Obligations.KeypadAgesThenTakesEvents : Prop :=
  ∀ (p : Keypad) (events : List KeyEvent),
    (∀ k : Key,
      ((p.update events).pressAge[k]).toNat =
        (if { key := k, kind := .pressed } ∈ events then 0 else min ((p.pressAge[k]).toNat + 1) 255) ∧
      ((p.update events).releaseAge[k]).toNat =
        (if { key := k, kind := .released } ∈ events then 0 else min ((p.releaseAge[k]).toNat + 1) 255)) ∧
    ((∀ e ∈ events, e.kind = .released) →
      (p.update events).pending.valid = p.pending.valid ∧ (p.update events).pending.key = p.pending.key ∧
      ((p.update events).pending.age).toNat =
        if p.pending.valid then min (p.pending.age.toNat + 1) 255 else p.pending.age.toNat) ∧
    (∀ (before after : List KeyEvent) (k : Key), events = before ++ { key := k, kind := .pressed } :: after →
      (∀ e ∈ after, e.kind = .released) →
      (p.update events).pending = { valid := true, key := k, age := 0 })

/-- The debounce window (R203): a key reads as pressed at press ages 0 to 3. After a press in one tick's batch, and ticks
without a further press of the key, it reads as pressed in the press's tick and the three ticks after, and no
longer, whatever is released meanwhile. -/
def Obligations.PressIsVisibleForFourTicks : Prop :=
  (∀ (p : Keypad) (k : Key), p.isPressed k = true ↔ (p.pressAge[k]).toNat ≤ 3) ∧
  ∀ (p : Keypad) (k : Key) (events : List KeyEvent) (later : List (List KeyEvent)),
    { key := k, kind := .pressed } ∈ events →
    (∀ batch ∈ later, { key := k, kind := .pressed } ∉ batch) →
    ((later.foldl Keypad.update (p.update events)).isPressed k = true ↔ later.length ≤ 3)

/-! ## Timers (46_timers.md) and the tick (40_pipeline.md section 2) -/

/-- LD Vx, DT, LD DT, Vx and LD ST, Vx move one byte and change nothing else (R223 to R225). -/
def Obligations.TimerMoves : Prop :=
  ∀ (x : Reg) (s : State),
    decode (0xF#4 ++ regBits x ++ 0x07#8) = .ok (.ldVxDt x) ∧
    Yields (.ldVxDt x) s (fun t => t.readV x = s.dt ∧ t.pc = s.pc ∧ Frame [x] [] [] s t) ∧
    decode (0xF#4 ++ regBits x ++ 0x15#8) = .ok (.ldDtVx x) ∧
    Yields (.ldDtVx x) s (fun t => t.dt = s.readV x ∧ t.pc = s.pc ∧ Frame [] [] [.dt] s t) ∧
    decode (0xF#4 ++ regBits x ++ 0x18#8) = .ok (.ldStVx x) ∧
    Yields (.ldStVx x) s (fun t => t.st = s.readV x ∧ t.pc = s.pc ∧ Frame [] [] [.st] s t)

/-- Phase 4 (R221, and R222 for 0 to 59): saturating decay stops at 0; mod60 decay of 0 to 59 goes round. Of a mod60 timer holding 60 or more
nothing is said: its value is free (Log 7). -/
def Obligations.TimersDecay : Prop :=
  ∀ s : State,
    s.decayTimers.pc = s.pc ∧ Frame [] [] [.dt, .st, .draws] s s.decayTimers ∧
    (s.config.timerDecay = .saturate →
      s.decayTimers.dt.toNat = s.dt.toNat - 1 ∧ s.decayTimers.st.toNat = s.st.toNat - 1) ∧
    (s.config.timerDecay = .mod60 →
      (s.dt.toNat < 60 → s.decayTimers.dt.toNat = (s.dt.toNat + 59) % 60) ∧
      (s.st.toNat < 60 → s.decayTimers.st.toNat = (s.st.toNat + 59) % 60))

/-- A tick runs exactly IPT slots after the keypad phases and then decays the timers once; a slot that faults ends it at
once, with the effects of the phases and slots before it and no decay (R99, R100, R106). -/
def Obligations.TickRunsBatchThenDecays : Prop :=
  ∀ (events : List KeyEvent) (s : State), s.fault = none →
    ∃ t, stepTick events s = .next t ∧
      ((t.fault = none ∧
          ∃ u, RunsSlots s.config.ipt.toNat (s.keypadPhase events) u ∧ t = u.decayTimers) ∨
       (∃ (n : Nat) (u : State) (f : FaultRecord), n < s.config.ipt.toNat ∧
          RunsSlots n (s.keypadPhase events) u ∧
          stepInstr u = .next t ∧ t.fault = some f ∧ { t with fault := none } = u))

/-- The steps of the model make up the tick of R99: from a boundary where the host gives a tick, or, the model's own choice
of Log 2, where no move is pending and the tick has no events, some number of steps, at least one and at most the larger
of 1 and IPT, reaches exactly the state of `step_tick`. That one step is one slot is the model's own choice (Log 1). -/
def Obligations.StepsMakeUpTheTick : Prop :=
  ∀ (s : State) (events : List KeyEvent) (rest : List HostInput),
    s.tick = .boundary →
    (s.inputs = .tick events :: rest ∨ (s.inputs = [] ∧ events = [] ∧ rest = [])) →
    ∃ (k : Nat) (t : State), 1 ≤ k ∧ k ≤ max 1 s.config.ipt.toNat ∧
      stepTick events (s.setInputs rest) = .next t ∧ Host.Core.run Sys2Proof.core k s = .next t

/-! ## Reset, construction and the host (70_reset_and_hazards.md, 10_state.md R34) -/

/-- Construction loads zeros, then the font at 0x000, then the image at 0x200, gives every other element of the state its
value of R272, and refuses an image of more than 3584 bytes (R68, R271). -/
def Obligations.ConstructionGivesInitialState : Prop :=
  ∀ p : Params,
    (p.image.length ≤ 3584 →
      ∃ t, construct p = .next t ∧
        (∀ a : Nat, a < 4096 →
          t.mem.read a =
            if h : a < 80 then p.font[a]
            else if h : 0x200 ≤ a ∧ a < 0x200 + p.image.length then p.image[a - 0x200]'(by omega)
            else 0) ∧
        (∀ r : Reg, t.readV r = 0) ∧ t.i = 0 ∧ t.pc = 0x200 ∧ t.stack.sp = 0 ∧
        (∀ k : Fin 16, t.stack.entries[k] = 0) ∧
        (∀ row col, t.disp.cell row col = false) ∧ t.dt = 0 ∧ t.st = 0 ∧
        (∀ k : Key, t.keypad.pressAge[k] = 255 ∧ t.keypad.releaseAge[k] = 255) ∧
        t.keypad.pending = { valid := false, key := 0, age := 255 } ∧
        t.config = p.config ∧ t.fault = none ∧ t.hostRead 0x4 = some 0 ∧ t.hostRead 0x8 = some 0 ∧
        t.soundActive = false) ∧
    (3584 < p.image.length → construct p = .refused .imageTooLong)

/-- The host's reset at a boundary, of a halted core too, gives the initial state of the same configuration, font and image
(R270, R274). The host's later moves and the counts of free values, fields of the model's own (Log 18), are left out of the
comparison. -/
def Obligations.HostResetGivesInitialState : Prop :=
  ∀ (s : State) (rest : List HostInput), s.tick = .boundary → s.inputs = .reset :: rest →
    s.params.image.length ≤ 3584 →
    ∃ t u, step s = .next t ∧ construct s.params = .next u ∧ t.params = s.params ∧ t.fault = none ∧
      t.pc = u.pc ∧ Frame [] [] [.inputs, .draws] u t

/-- The configuration, the font and the image never change after construction, by any step (R10, R274). -/
def Obligations.ParametersNeverChange : Prop :=
  ∀ s t : State, step s = .next t → t.params = s.params

/-- The host register map, bit by bit; host writes are ignored (R34). -/
def Obligations.HostRegisterMap : Prop :=
  ∀ s : State,
    (∃ w, s.hostRead 0x0 = some w ∧
      w.getLsbD 0 = s.config.vfReset ∧ w.getLsbD 1 = s.config.amigaBehaviour ∧
      w.getLsbD 2 = s.config.modernShift ∧ w.getLsbD 3 = s.config.modernStrLd ∧
      (w.getLsbD 4 = true ↔ s.config.timerDecay = .mod60) ∧
      (w.getLsbD 5 = true ↔ s.config.drawYWrap = .wrap32) ∧
      (w.getLsbD 6 = true ↔ s.config.keySkipNot = .released) ∧
      (w.getLsbD 7 = true ↔ s.config.keyIndex = .mask) ∧
      w.extractLsb' 8 8 = 0 ∧ w.extractLsb' 16 16 = s.config.ipt) ∧
    (s.fault = none → s.hostRead 0x4 = some 0 ∧ s.hostRead 0x8 = some 0) ∧
    (∀ f, s.fault = some f → ∃ w v, s.hostRead 0x4 = some w ∧ s.hostRead 0x8 = some v ∧
      (w.extractLsb' 0 3).toNat =
        (match f.cause with
          | .unknownOpcode => 1 | .stackOverflow => 2 | .stackUnderflow => 3
          | .addressOutOfRange => 4 | .keyOutOfRange => 5) ∧
      w.extractLsb' 3 13 = 0 ∧ w.extractLsb' 16 16 = f.pc ∧
      v.extractLsb' 0 16 = f.opcode ∧ v.extractLsb' 16 16 = f.addr) ∧
    (∀ offset value rest, s.tick = .boundary → s.inputs = .writeRegister offset value :: rest →
      step s = .next (s.setInputs rest))

/-- The display output numbers cell (x, y) as bit `y*64 + x`, and `sound_active` is ST ≠ 0 (R102, R226). -/
def Obligations.DisplayAndSoundOutputs : Prop :=
  ∀ s : State,
    (∀ (row : Fin 32) (col : Fin 64) (h : row.val * 64 + col.val < 2048),
      s.displayBit ⟨row.val * 64 + col.val, h⟩ = s.disp.cell row col) ∧
    (s.soundActive = true ↔ s.st ≠ 0)

/-! ## Invariants -/

/-- Every step keeps memory in its canonical form, every listed address inside 0x000 to 0xFFF, and the image in bounds. -/
def Obligations.MemInvIsKept : Prop :=
  ∀ s t : State, s.MemInv → step s = .next t → t.MemInv

/-- Every step keeps `pc` at most 0x10FE (R24), with every stack entry at most 0x1000. -/
def Obligations.PcInvIsKept : Prop :=
  ∀ s t : State, s.PcInv → step s = .next t → t.PcInv

/-- Every step keeps the PendingKeyWait record that of the most recent press, at the key's own press age (R32, R201). -/
def Obligations.PendingInvIsKept : Prop :=
  ∀ s t : State, s.PendingInv → step s = .next t → t.PendingInv

/-- Every step keeps the FAULT registers those of a fault at `pc`, with a word and an ADDR that the table of R241 gives its
cause. -/
def Obligations.FaultInvIsKept : Prop :=
  ∀ s t : State, s.FaultInv → step s = .next t → t.FaultInv

/-- Every step keeps the tick in order: inside a batch the core is not halted and between 1 and IPT slots are left. -/
def Obligations.TickInvIsKept : Prop :=
  ∀ s t : State, s.TickInv → step s = .next t → t.TickInv

/-- The invariants hold at reset, and after every construction the host accepts. -/
def Obligations.InvAtReset : Prop :=
  State.reset.Inv ∧ ∀ (p : Params) (s : State), construct p = .next s → s.Inv

/-- Every state a run reaches meets all the invariants, for every configuration, image, sequence of host moves and
sequence of free values. -/
def Obligations.ReachableStatesMeetInv : Prop :=
  ∀ s : State, Reachable s → s.Inv
end

