-- ==== Sys2Proof/Laws/State.lean ====
section
/-! SUPPORT. What each named update of State does to each field: one lemma per field per update, all by rfl. -/

namespace Sys2Proof.Machine

/-! ## writeV -/

@[simp] theorem State.writeV_v (s : State) (x : Reg) (b : Byte) : (s.writeV x b).v = s.v.set x b := rfl
@[simp] theorem State.writeV_i (s : State) (x : Reg) (b : Byte) : (s.writeV x b).i = s.i := rfl
@[simp] theorem State.writeV_pc (s : State) (x : Reg) (b : Byte) : (s.writeV x b).pc = s.pc := rfl
@[simp] theorem State.writeV_stack (s : State) (x : Reg) (b : Byte) : (s.writeV x b).stack = s.stack := rfl
@[simp] theorem State.writeV_mem (s : State) (x : Reg) (b : Byte) : (s.writeV x b).mem = s.mem := rfl
@[simp] theorem State.writeV_disp (s : State) (x : Reg) (b : Byte) : (s.writeV x b).disp = s.disp := rfl
@[simp] theorem State.writeV_dt (s : State) (x : Reg) (b : Byte) : (s.writeV x b).dt = s.dt := rfl
@[simp] theorem State.writeV_st (s : State) (x : Reg) (b : Byte) : (s.writeV x b).st = s.st := rfl
@[simp] theorem State.writeV_keypad (s : State) (x : Reg) (b : Byte) : (s.writeV x b).keypad = s.keypad := rfl
@[simp] theorem State.writeV_fault (s : State) (x : Reg) (b : Byte) : (s.writeV x b).fault = s.fault := rfl
@[simp] theorem State.writeV_params (s : State) (x : Reg) (b : Byte) : (s.writeV x b).params = s.params := rfl
@[simp] theorem State.writeV_tick (s : State) (x : Reg) (b : Byte) : (s.writeV x b).tick = s.tick := rfl
@[simp] theorem State.writeV_inputs (s : State) (x : Reg) (b : Byte) : (s.writeV x b).inputs = s.inputs := rfl
@[simp] theorem State.writeV_draws (s : State) (x : Reg) (b : Byte) : (s.writeV x b).draws = s.draws := rfl
@[simp] theorem State.writeV_config (s : State) (x : Reg) (b : Byte) : (s.writeV x b).config = s.config := rfl
@[simp] theorem State.writeV_halted (s : State) (x : Reg) (b : Byte) : (s.writeV x b).halted = s.halted := rfl

/-! ## setI -/

@[simp] theorem State.setI_v (s : State) (w : Word) : (s.setI w).v = s.v := rfl
@[simp] theorem State.setI_i (s : State) (w : Word) : (s.setI w).i = w := rfl
@[simp] theorem State.setI_pc (s : State) (w : Word) : (s.setI w).pc = s.pc := rfl
@[simp] theorem State.setI_stack (s : State) (w : Word) : (s.setI w).stack = s.stack := rfl
@[simp] theorem State.setI_mem (s : State) (w : Word) : (s.setI w).mem = s.mem := rfl
@[simp] theorem State.setI_disp (s : State) (w : Word) : (s.setI w).disp = s.disp := rfl
@[simp] theorem State.setI_dt (s : State) (w : Word) : (s.setI w).dt = s.dt := rfl
@[simp] theorem State.setI_st (s : State) (w : Word) : (s.setI w).st = s.st := rfl
@[simp] theorem State.setI_keypad (s : State) (w : Word) : (s.setI w).keypad = s.keypad := rfl
@[simp] theorem State.setI_fault (s : State) (w : Word) : (s.setI w).fault = s.fault := rfl
@[simp] theorem State.setI_params (s : State) (w : Word) : (s.setI w).params = s.params := rfl
@[simp] theorem State.setI_tick (s : State) (w : Word) : (s.setI w).tick = s.tick := rfl
@[simp] theorem State.setI_inputs (s : State) (w : Word) : (s.setI w).inputs = s.inputs := rfl
@[simp] theorem State.setI_draws (s : State) (w : Word) : (s.setI w).draws = s.draws := rfl
@[simp] theorem State.setI_readV (s : State) (w : Word) (r : Reg) : (s.setI w).readV r = s.readV r := rfl
@[simp] theorem State.setI_config (s : State) (w : Word) : (s.setI w).config = s.config := rfl
@[simp] theorem State.setI_halted (s : State) (w : Word) : (s.setI w).halted = s.halted := rfl

/-! ## setPc -/

@[simp] theorem State.setPc_v (s : State) (w : Word) : (s.setPc w).v = s.v := rfl
@[simp] theorem State.setPc_i (s : State) (w : Word) : (s.setPc w).i = s.i := rfl
@[simp] theorem State.setPc_pc (s : State) (w : Word) : (s.setPc w).pc = w := rfl
@[simp] theorem State.setPc_stack (s : State) (w : Word) : (s.setPc w).stack = s.stack := rfl
@[simp] theorem State.setPc_mem (s : State) (w : Word) : (s.setPc w).mem = s.mem := rfl
@[simp] theorem State.setPc_disp (s : State) (w : Word) : (s.setPc w).disp = s.disp := rfl
@[simp] theorem State.setPc_dt (s : State) (w : Word) : (s.setPc w).dt = s.dt := rfl
@[simp] theorem State.setPc_st (s : State) (w : Word) : (s.setPc w).st = s.st := rfl
@[simp] theorem State.setPc_keypad (s : State) (w : Word) : (s.setPc w).keypad = s.keypad := rfl
@[simp] theorem State.setPc_fault (s : State) (w : Word) : (s.setPc w).fault = s.fault := rfl
@[simp] theorem State.setPc_params (s : State) (w : Word) : (s.setPc w).params = s.params := rfl
@[simp] theorem State.setPc_tick (s : State) (w : Word) : (s.setPc w).tick = s.tick := rfl
@[simp] theorem State.setPc_inputs (s : State) (w : Word) : (s.setPc w).inputs = s.inputs := rfl
@[simp] theorem State.setPc_draws (s : State) (w : Word) : (s.setPc w).draws = s.draws := rfl
@[simp] theorem State.setPc_readV (s : State) (w : Word) (r : Reg) : (s.setPc w).readV r = s.readV r := rfl
@[simp] theorem State.setPc_config (s : State) (w : Word) : (s.setPc w).config = s.config := rfl
@[simp] theorem State.setPc_halted (s : State) (w : Word) : (s.setPc w).halted = s.halted := rfl

/-! ## setDt -/

@[simp] theorem State.setDt_v (s : State) (b : Byte) : (s.setDt b).v = s.v := rfl
@[simp] theorem State.setDt_i (s : State) (b : Byte) : (s.setDt b).i = s.i := rfl
@[simp] theorem State.setDt_pc (s : State) (b : Byte) : (s.setDt b).pc = s.pc := rfl
@[simp] theorem State.setDt_stack (s : State) (b : Byte) : (s.setDt b).stack = s.stack := rfl
@[simp] theorem State.setDt_mem (s : State) (b : Byte) : (s.setDt b).mem = s.mem := rfl
@[simp] theorem State.setDt_disp (s : State) (b : Byte) : (s.setDt b).disp = s.disp := rfl
@[simp] theorem State.setDt_dt (s : State) (b : Byte) : (s.setDt b).dt = b := rfl
@[simp] theorem State.setDt_st (s : State) (b : Byte) : (s.setDt b).st = s.st := rfl
@[simp] theorem State.setDt_keypad (s : State) (b : Byte) : (s.setDt b).keypad = s.keypad := rfl
@[simp] theorem State.setDt_fault (s : State) (b : Byte) : (s.setDt b).fault = s.fault := rfl
@[simp] theorem State.setDt_params (s : State) (b : Byte) : (s.setDt b).params = s.params := rfl
@[simp] theorem State.setDt_tick (s : State) (b : Byte) : (s.setDt b).tick = s.tick := rfl
@[simp] theorem State.setDt_inputs (s : State) (b : Byte) : (s.setDt b).inputs = s.inputs := rfl
@[simp] theorem State.setDt_draws (s : State) (b : Byte) : (s.setDt b).draws = s.draws := rfl
@[simp] theorem State.setDt_readV (s : State) (b : Byte) (r : Reg) : (s.setDt b).readV r = s.readV r := rfl
@[simp] theorem State.setDt_config (s : State) (b : Byte) : (s.setDt b).config = s.config := rfl
@[simp] theorem State.setDt_halted (s : State) (b : Byte) : (s.setDt b).halted = s.halted := rfl

/-! ## setSt -/

@[simp] theorem State.setSt_v (s : State) (b : Byte) : (s.setSt b).v = s.v := rfl
@[simp] theorem State.setSt_i (s : State) (b : Byte) : (s.setSt b).i = s.i := rfl
@[simp] theorem State.setSt_pc (s : State) (b : Byte) : (s.setSt b).pc = s.pc := rfl
@[simp] theorem State.setSt_stack (s : State) (b : Byte) : (s.setSt b).stack = s.stack := rfl
@[simp] theorem State.setSt_mem (s : State) (b : Byte) : (s.setSt b).mem = s.mem := rfl
@[simp] theorem State.setSt_disp (s : State) (b : Byte) : (s.setSt b).disp = s.disp := rfl
@[simp] theorem State.setSt_dt (s : State) (b : Byte) : (s.setSt b).dt = s.dt := rfl
@[simp] theorem State.setSt_st (s : State) (b : Byte) : (s.setSt b).st = b := rfl
@[simp] theorem State.setSt_keypad (s : State) (b : Byte) : (s.setSt b).keypad = s.keypad := rfl
@[simp] theorem State.setSt_fault (s : State) (b : Byte) : (s.setSt b).fault = s.fault := rfl
@[simp] theorem State.setSt_params (s : State) (b : Byte) : (s.setSt b).params = s.params := rfl
@[simp] theorem State.setSt_tick (s : State) (b : Byte) : (s.setSt b).tick = s.tick := rfl
@[simp] theorem State.setSt_inputs (s : State) (b : Byte) : (s.setSt b).inputs = s.inputs := rfl
@[simp] theorem State.setSt_draws (s : State) (b : Byte) : (s.setSt b).draws = s.draws := rfl
@[simp] theorem State.setSt_readV (s : State) (b : Byte) (r : Reg) : (s.setSt b).readV r = s.readV r := rfl
@[simp] theorem State.setSt_config (s : State) (b : Byte) : (s.setSt b).config = s.config := rfl
@[simp] theorem State.setSt_halted (s : State) (b : Byte) : (s.setSt b).halted = s.halted := rfl

/-! ## setMem -/

@[simp] theorem State.setMem_v (s : State) (m : Memory) : (s.setMem m).v = s.v := rfl
@[simp] theorem State.setMem_i (s : State) (m : Memory) : (s.setMem m).i = s.i := rfl
@[simp] theorem State.setMem_pc (s : State) (m : Memory) : (s.setMem m).pc = s.pc := rfl
@[simp] theorem State.setMem_stack (s : State) (m : Memory) : (s.setMem m).stack = s.stack := rfl
@[simp] theorem State.setMem_mem (s : State) (m : Memory) : (s.setMem m).mem = m := rfl
@[simp] theorem State.setMem_disp (s : State) (m : Memory) : (s.setMem m).disp = s.disp := rfl
@[simp] theorem State.setMem_dt (s : State) (m : Memory) : (s.setMem m).dt = s.dt := rfl
@[simp] theorem State.setMem_st (s : State) (m : Memory) : (s.setMem m).st = s.st := rfl
@[simp] theorem State.setMem_keypad (s : State) (m : Memory) : (s.setMem m).keypad = s.keypad := rfl
@[simp] theorem State.setMem_fault (s : State) (m : Memory) : (s.setMem m).fault = s.fault := rfl
@[simp] theorem State.setMem_params (s : State) (m : Memory) : (s.setMem m).params = s.params := rfl
@[simp] theorem State.setMem_tick (s : State) (m : Memory) : (s.setMem m).tick = s.tick := rfl
@[simp] theorem State.setMem_inputs (s : State) (m : Memory) : (s.setMem m).inputs = s.inputs := rfl
@[simp] theorem State.setMem_draws (s : State) (m : Memory) : (s.setMem m).draws = s.draws := rfl
@[simp] theorem State.setMem_readV (s : State) (m : Memory) (r : Reg) : (s.setMem m).readV r = s.readV r := rfl
@[simp] theorem State.setMem_config (s : State) (m : Memory) : (s.setMem m).config = s.config := rfl
@[simp] theorem State.setMem_halted (s : State) (m : Memory) : (s.setMem m).halted = s.halted := rfl

/-! ## setStack -/

@[simp] theorem State.setStack_v (s : State) (k : CallStack) : (s.setStack k).v = s.v := rfl
@[simp] theorem State.setStack_i (s : State) (k : CallStack) : (s.setStack k).i = s.i := rfl
@[simp] theorem State.setStack_pc (s : State) (k : CallStack) : (s.setStack k).pc = s.pc := rfl
@[simp] theorem State.setStack_stack (s : State) (k : CallStack) : (s.setStack k).stack = k := rfl
@[simp] theorem State.setStack_mem (s : State) (k : CallStack) : (s.setStack k).mem = s.mem := rfl
@[simp] theorem State.setStack_disp (s : State) (k : CallStack) : (s.setStack k).disp = s.disp := rfl
@[simp] theorem State.setStack_dt (s : State) (k : CallStack) : (s.setStack k).dt = s.dt := rfl
@[simp] theorem State.setStack_st (s : State) (k : CallStack) : (s.setStack k).st = s.st := rfl
@[simp] theorem State.setStack_keypad (s : State) (k : CallStack) : (s.setStack k).keypad = s.keypad := rfl
@[simp] theorem State.setStack_fault (s : State) (k : CallStack) : (s.setStack k).fault = s.fault := rfl
@[simp] theorem State.setStack_params (s : State) (k : CallStack) : (s.setStack k).params = s.params := rfl
@[simp] theorem State.setStack_tick (s : State) (k : CallStack) : (s.setStack k).tick = s.tick := rfl
@[simp] theorem State.setStack_inputs (s : State) (k : CallStack) : (s.setStack k).inputs = s.inputs := rfl
@[simp] theorem State.setStack_draws (s : State) (k : CallStack) : (s.setStack k).draws = s.draws := rfl
@[simp] theorem State.setStack_readV (s : State) (k : CallStack) (r : Reg) : (s.setStack k).readV r = s.readV r := rfl
@[simp] theorem State.setStack_config (s : State) (k : CallStack) : (s.setStack k).config = s.config := rfl
@[simp] theorem State.setStack_halted (s : State) (k : CallStack) : (s.setStack k).halted = s.halted := rfl

/-! ## setDisp -/

@[simp] theorem State.setDisp_v (s : State) (d : Display) : (s.setDisp d).v = s.v := rfl
@[simp] theorem State.setDisp_i (s : State) (d : Display) : (s.setDisp d).i = s.i := rfl
@[simp] theorem State.setDisp_pc (s : State) (d : Display) : (s.setDisp d).pc = s.pc := rfl
@[simp] theorem State.setDisp_stack (s : State) (d : Display) : (s.setDisp d).stack = s.stack := rfl
@[simp] theorem State.setDisp_mem (s : State) (d : Display) : (s.setDisp d).mem = s.mem := rfl
@[simp] theorem State.setDisp_disp (s : State) (d : Display) : (s.setDisp d).disp = d := rfl
@[simp] theorem State.setDisp_dt (s : State) (d : Display) : (s.setDisp d).dt = s.dt := rfl
@[simp] theorem State.setDisp_st (s : State) (d : Display) : (s.setDisp d).st = s.st := rfl
@[simp] theorem State.setDisp_keypad (s : State) (d : Display) : (s.setDisp d).keypad = s.keypad := rfl
@[simp] theorem State.setDisp_fault (s : State) (d : Display) : (s.setDisp d).fault = s.fault := rfl
@[simp] theorem State.setDisp_params (s : State) (d : Display) : (s.setDisp d).params = s.params := rfl
@[simp] theorem State.setDisp_tick (s : State) (d : Display) : (s.setDisp d).tick = s.tick := rfl
@[simp] theorem State.setDisp_inputs (s : State) (d : Display) : (s.setDisp d).inputs = s.inputs := rfl
@[simp] theorem State.setDisp_draws (s : State) (d : Display) : (s.setDisp d).draws = s.draws := rfl
@[simp] theorem State.setDisp_readV (s : State) (d : Display) (r : Reg) : (s.setDisp d).readV r = s.readV r := rfl
@[simp] theorem State.setDisp_config (s : State) (d : Display) : (s.setDisp d).config = s.config := rfl
@[simp] theorem State.setDisp_halted (s : State) (d : Display) : (s.setDisp d).halted = s.halted := rfl

/-! ## setKeypad -/

@[simp] theorem State.setKeypad_v (s : State) (k : Keypad) : (s.setKeypad k).v = s.v := rfl
@[simp] theorem State.setKeypad_i (s : State) (k : Keypad) : (s.setKeypad k).i = s.i := rfl
@[simp] theorem State.setKeypad_pc (s : State) (k : Keypad) : (s.setKeypad k).pc = s.pc := rfl
@[simp] theorem State.setKeypad_stack (s : State) (k : Keypad) : (s.setKeypad k).stack = s.stack := rfl
@[simp] theorem State.setKeypad_mem (s : State) (k : Keypad) : (s.setKeypad k).mem = s.mem := rfl
@[simp] theorem State.setKeypad_disp (s : State) (k : Keypad) : (s.setKeypad k).disp = s.disp := rfl
@[simp] theorem State.setKeypad_dt (s : State) (k : Keypad) : (s.setKeypad k).dt = s.dt := rfl
@[simp] theorem State.setKeypad_st (s : State) (k : Keypad) : (s.setKeypad k).st = s.st := rfl
@[simp] theorem State.setKeypad_keypad (s : State) (k : Keypad) : (s.setKeypad k).keypad = k := rfl
@[simp] theorem State.setKeypad_fault (s : State) (k : Keypad) : (s.setKeypad k).fault = s.fault := rfl
@[simp] theorem State.setKeypad_params (s : State) (k : Keypad) : (s.setKeypad k).params = s.params := rfl
@[simp] theorem State.setKeypad_tick (s : State) (k : Keypad) : (s.setKeypad k).tick = s.tick := rfl
@[simp] theorem State.setKeypad_inputs (s : State) (k : Keypad) : (s.setKeypad k).inputs = s.inputs := rfl
@[simp] theorem State.setKeypad_draws (s : State) (k : Keypad) : (s.setKeypad k).draws = s.draws := rfl
@[simp] theorem State.setKeypad_readV (s : State) (k : Keypad) (r : Reg) : (s.setKeypad k).readV r = s.readV r := rfl
@[simp] theorem State.setKeypad_config (s : State) (k : Keypad) : (s.setKeypad k).config = s.config := rfl
@[simp] theorem State.setKeypad_halted (s : State) (k : Keypad) : (s.setKeypad k).halted = s.halted := rfl

/-! ## setTick -/

@[simp] theorem State.setTick_v (s : State) (p : TickPhase) : (s.setTick p).v = s.v := rfl
@[simp] theorem State.setTick_i (s : State) (p : TickPhase) : (s.setTick p).i = s.i := rfl
@[simp] theorem State.setTick_pc (s : State) (p : TickPhase) : (s.setTick p).pc = s.pc := rfl
@[simp] theorem State.setTick_stack (s : State) (p : TickPhase) : (s.setTick p).stack = s.stack := rfl
@[simp] theorem State.setTick_mem (s : State) (p : TickPhase) : (s.setTick p).mem = s.mem := rfl
@[simp] theorem State.setTick_disp (s : State) (p : TickPhase) : (s.setTick p).disp = s.disp := rfl
@[simp] theorem State.setTick_dt (s : State) (p : TickPhase) : (s.setTick p).dt = s.dt := rfl
@[simp] theorem State.setTick_st (s : State) (p : TickPhase) : (s.setTick p).st = s.st := rfl
@[simp] theorem State.setTick_keypad (s : State) (p : TickPhase) : (s.setTick p).keypad = s.keypad := rfl
@[simp] theorem State.setTick_fault (s : State) (p : TickPhase) : (s.setTick p).fault = s.fault := rfl
@[simp] theorem State.setTick_params (s : State) (p : TickPhase) : (s.setTick p).params = s.params := rfl
@[simp] theorem State.setTick_tick (s : State) (p : TickPhase) : (s.setTick p).tick = p := rfl
@[simp] theorem State.setTick_inputs (s : State) (p : TickPhase) : (s.setTick p).inputs = s.inputs := rfl
@[simp] theorem State.setTick_draws (s : State) (p : TickPhase) : (s.setTick p).draws = s.draws := rfl
@[simp] theorem State.setTick_readV (s : State) (p : TickPhase) (r : Reg) : (s.setTick p).readV r = s.readV r := rfl
@[simp] theorem State.setTick_config (s : State) (p : TickPhase) : (s.setTick p).config = s.config := rfl
@[simp] theorem State.setTick_halted (s : State) (p : TickPhase) : (s.setTick p).halted = s.halted := rfl

/-! ## setInputs -/

@[simp] theorem State.setInputs_v (s : State) (l : List HostInput) : (s.setInputs l).v = s.v := rfl
@[simp] theorem State.setInputs_i (s : State) (l : List HostInput) : (s.setInputs l).i = s.i := rfl
@[simp] theorem State.setInputs_pc (s : State) (l : List HostInput) : (s.setInputs l).pc = s.pc := rfl
@[simp] theorem State.setInputs_stack (s : State) (l : List HostInput) : (s.setInputs l).stack = s.stack := rfl
@[simp] theorem State.setInputs_mem (s : State) (l : List HostInput) : (s.setInputs l).mem = s.mem := rfl
@[simp] theorem State.setInputs_disp (s : State) (l : List HostInput) : (s.setInputs l).disp = s.disp := rfl
@[simp] theorem State.setInputs_dt (s : State) (l : List HostInput) : (s.setInputs l).dt = s.dt := rfl
@[simp] theorem State.setInputs_st (s : State) (l : List HostInput) : (s.setInputs l).st = s.st := rfl
@[simp] theorem State.setInputs_keypad (s : State) (l : List HostInput) : (s.setInputs l).keypad = s.keypad := rfl
@[simp] theorem State.setInputs_fault (s : State) (l : List HostInput) : (s.setInputs l).fault = s.fault := rfl
@[simp] theorem State.setInputs_params (s : State) (l : List HostInput) : (s.setInputs l).params = s.params := rfl
@[simp] theorem State.setInputs_tick (s : State) (l : List HostInput) : (s.setInputs l).tick = s.tick := rfl
@[simp] theorem State.setInputs_inputs (s : State) (l : List HostInput) : (s.setInputs l).inputs = l := rfl
@[simp] theorem State.setInputs_draws (s : State) (l : List HostInput) : (s.setInputs l).draws = s.draws := rfl
@[simp] theorem State.setInputs_readV (s : State) (l : List HostInput) (r : Reg) : (s.setInputs l).readV r = s.readV r := rfl
@[simp] theorem State.setInputs_config (s : State) (l : List HostInput) : (s.setInputs l).config = s.config := rfl
@[simp] theorem State.setInputs_halted (s : State) (l : List HostInput) : (s.setInputs l).halted = s.halted := rfl

/-! ## setDraws -/

@[simp] theorem State.setDraws_v (s : State) (d : Draws) : (s.setDraws d).v = s.v := rfl
@[simp] theorem State.setDraws_i (s : State) (d : Draws) : (s.setDraws d).i = s.i := rfl
@[simp] theorem State.setDraws_pc (s : State) (d : Draws) : (s.setDraws d).pc = s.pc := rfl
@[simp] theorem State.setDraws_stack (s : State) (d : Draws) : (s.setDraws d).stack = s.stack := rfl
@[simp] theorem State.setDraws_mem (s : State) (d : Draws) : (s.setDraws d).mem = s.mem := rfl
@[simp] theorem State.setDraws_disp (s : State) (d : Draws) : (s.setDraws d).disp = s.disp := rfl
@[simp] theorem State.setDraws_dt (s : State) (d : Draws) : (s.setDraws d).dt = s.dt := rfl
@[simp] theorem State.setDraws_st (s : State) (d : Draws) : (s.setDraws d).st = s.st := rfl
@[simp] theorem State.setDraws_keypad (s : State) (d : Draws) : (s.setDraws d).keypad = s.keypad := rfl
@[simp] theorem State.setDraws_fault (s : State) (d : Draws) : (s.setDraws d).fault = s.fault := rfl
@[simp] theorem State.setDraws_params (s : State) (d : Draws) : (s.setDraws d).params = s.params := rfl
@[simp] theorem State.setDraws_tick (s : State) (d : Draws) : (s.setDraws d).tick = s.tick := rfl
@[simp] theorem State.setDraws_inputs (s : State) (d : Draws) : (s.setDraws d).inputs = s.inputs := rfl
@[simp] theorem State.setDraws_draws (s : State) (d : Draws) : (s.setDraws d).draws = d := rfl
@[simp] theorem State.setDraws_readV (s : State) (d : Draws) (r : Reg) : (s.setDraws d).readV r = s.readV r := rfl
@[simp] theorem State.setDraws_config (s : State) (d : Draws) : (s.setDraws d).config = s.config := rfl
@[simp] theorem State.setDraws_halted (s : State) (d : Draws) : (s.setDraws d).halted = s.halted := rfl

/-! ## enterFault -/

@[simp] theorem State.enterFault_v (s : State) (c : Fault) (p w a : Word) : (s.enterFault c p w a).v = s.v := rfl
@[simp] theorem State.enterFault_i (s : State) (c : Fault) (p w a : Word) : (s.enterFault c p w a).i = s.i := rfl
@[simp] theorem State.enterFault_pc (s : State) (c : Fault) (p w a : Word) : (s.enterFault c p w a).pc = p := rfl
@[simp] theorem State.enterFault_stack (s : State) (c : Fault) (p w a : Word) : (s.enterFault c p w a).stack = s.stack := rfl
@[simp] theorem State.enterFault_mem (s : State) (c : Fault) (p w a : Word) : (s.enterFault c p w a).mem = s.mem := rfl
@[simp] theorem State.enterFault_disp (s : State) (c : Fault) (p w a : Word) : (s.enterFault c p w a).disp = s.disp := rfl
@[simp] theorem State.enterFault_dt (s : State) (c : Fault) (p w a : Word) : (s.enterFault c p w a).dt = s.dt := rfl
@[simp] theorem State.enterFault_st (s : State) (c : Fault) (p w a : Word) : (s.enterFault c p w a).st = s.st := rfl
@[simp] theorem State.enterFault_keypad (s : State) (c : Fault) (p w a : Word) : (s.enterFault c p w a).keypad = s.keypad := rfl
@[simp] theorem State.enterFault_fault (s : State) (c : Fault) (p w a : Word) : (s.enterFault c p w a).fault = some { cause := c, pc := p, opcode := w, addr := a } := rfl
@[simp] theorem State.enterFault_params (s : State) (c : Fault) (p w a : Word) : (s.enterFault c p w a).params = s.params := rfl
@[simp] theorem State.enterFault_tick (s : State) (c : Fault) (p w a : Word) : (s.enterFault c p w a).tick = s.tick := rfl
@[simp] theorem State.enterFault_inputs (s : State) (c : Fault) (p w a : Word) : (s.enterFault c p w a).inputs = s.inputs := rfl
@[simp] theorem State.enterFault_draws (s : State) (c : Fault) (p w a : Word) : (s.enterFault c p w a).draws = s.draws := rfl
@[simp] theorem State.enterFault_readV (s : State) (c : Fault) (p w a : Word) (r : Reg) : (s.enterFault c p w a).readV r = s.readV r := rfl
@[simp] theorem State.enterFault_config (s : State) (c : Fault) (p w a : Word) : (s.enterFault c p w a).config = s.config := rfl
@[simp] theorem State.enterFault_halted (s : State) (c : Fault) (p w a : Word) : (s.enterFault c p w a).halted = true := rfl

/-! ## loadRegs -/

@[simp] theorem State.loadRegs_i (s : State) (x : Reg) : (s.loadRegs x).i = s.i := rfl
@[simp] theorem State.loadRegs_pc (s : State) (x : Reg) : (s.loadRegs x).pc = s.pc := rfl
@[simp] theorem State.loadRegs_stack (s : State) (x : Reg) : (s.loadRegs x).stack = s.stack := rfl
@[simp] theorem State.loadRegs_mem (s : State) (x : Reg) : (s.loadRegs x).mem = s.mem := rfl
@[simp] theorem State.loadRegs_disp (s : State) (x : Reg) : (s.loadRegs x).disp = s.disp := rfl
@[simp] theorem State.loadRegs_dt (s : State) (x : Reg) : (s.loadRegs x).dt = s.dt := rfl
@[simp] theorem State.loadRegs_st (s : State) (x : Reg) : (s.loadRegs x).st = s.st := rfl
@[simp] theorem State.loadRegs_keypad (s : State) (x : Reg) : (s.loadRegs x).keypad = s.keypad := rfl
@[simp] theorem State.loadRegs_fault (s : State) (x : Reg) : (s.loadRegs x).fault = s.fault := rfl
@[simp] theorem State.loadRegs_params (s : State) (x : Reg) : (s.loadRegs x).params = s.params := rfl
@[simp] theorem State.loadRegs_tick (s : State) (x : Reg) : (s.loadRegs x).tick = s.tick := rfl
@[simp] theorem State.loadRegs_inputs (s : State) (x : Reg) : (s.loadRegs x).inputs = s.inputs := rfl
@[simp] theorem State.loadRegs_draws (s : State) (x : Reg) : (s.loadRegs x).draws = s.draws := rfl
@[simp] theorem State.loadRegs_config (s : State) (x : Reg) : (s.loadRegs x).config = s.config := rfl
@[simp] theorem State.loadRegs_halted (s : State) (x : Reg) : (s.loadRegs x).halted = s.halted := rfl

/-! ## writeFlag -/

@[simp] theorem State.writeFlag_v (s : State) (b : Bool) : (s.writeFlag b).v = s.v.set vf (flagByte b) := rfl
@[simp] theorem State.writeFlag_i (s : State) (b : Bool) : (s.writeFlag b).i = s.i := rfl
@[simp] theorem State.writeFlag_pc (s : State) (b : Bool) : (s.writeFlag b).pc = s.pc := rfl
@[simp] theorem State.writeFlag_stack (s : State) (b : Bool) : (s.writeFlag b).stack = s.stack := rfl
@[simp] theorem State.writeFlag_mem (s : State) (b : Bool) : (s.writeFlag b).mem = s.mem := rfl
@[simp] theorem State.writeFlag_disp (s : State) (b : Bool) : (s.writeFlag b).disp = s.disp := rfl
@[simp] theorem State.writeFlag_dt (s : State) (b : Bool) : (s.writeFlag b).dt = s.dt := rfl
@[simp] theorem State.writeFlag_st (s : State) (b : Bool) : (s.writeFlag b).st = s.st := rfl
@[simp] theorem State.writeFlag_keypad (s : State) (b : Bool) : (s.writeFlag b).keypad = s.keypad := rfl
@[simp] theorem State.writeFlag_fault (s : State) (b : Bool) : (s.writeFlag b).fault = s.fault := rfl
@[simp] theorem State.writeFlag_params (s : State) (b : Bool) : (s.writeFlag b).params = s.params := rfl
@[simp] theorem State.writeFlag_tick (s : State) (b : Bool) : (s.writeFlag b).tick = s.tick := rfl
@[simp] theorem State.writeFlag_inputs (s : State) (b : Bool) : (s.writeFlag b).inputs = s.inputs := rfl
@[simp] theorem State.writeFlag_draws (s : State) (b : Bool) : (s.writeFlag b).draws = s.draws := rfl
@[simp] theorem State.writeFlag_config (s : State) (b : Bool) : (s.writeFlag b).config = s.config := rfl
@[simp] theorem State.writeFlag_halted (s : State) (b : Bool) : (s.writeFlag b).halted = s.halted := rfl

/-! ## consumeRandom -/

@[simp] theorem State.consumeRandom_v (s : State) : s.consumeRandom.v = s.v := rfl
@[simp] theorem State.consumeRandom_i (s : State) : s.consumeRandom.i = s.i := rfl
@[simp] theorem State.consumeRandom_pc (s : State) : s.consumeRandom.pc = s.pc := rfl
@[simp] theorem State.consumeRandom_stack (s : State) : s.consumeRandom.stack = s.stack := rfl
@[simp] theorem State.consumeRandom_mem (s : State) : s.consumeRandom.mem = s.mem := rfl
@[simp] theorem State.consumeRandom_disp (s : State) : s.consumeRandom.disp = s.disp := rfl
@[simp] theorem State.consumeRandom_dt (s : State) : s.consumeRandom.dt = s.dt := rfl
@[simp] theorem State.consumeRandom_st (s : State) : s.consumeRandom.st = s.st := rfl
@[simp] theorem State.consumeRandom_keypad (s : State) : s.consumeRandom.keypad = s.keypad := rfl
@[simp] theorem State.consumeRandom_fault (s : State) : s.consumeRandom.fault = s.fault := rfl
@[simp] theorem State.consumeRandom_params (s : State) : s.consumeRandom.params = s.params := rfl
@[simp] theorem State.consumeRandom_tick (s : State) : s.consumeRandom.tick = s.tick := rfl
@[simp] theorem State.consumeRandom_inputs (s : State) : s.consumeRandom.inputs = s.inputs := rfl
@[simp] theorem State.consumeRandom_draws (s : State) : s.consumeRandom.draws = { s.draws with random := s.draws.random + 1 } := rfl
@[simp] theorem State.consumeRandom_readV (s : State) (r : Reg) : s.consumeRandom.readV r = s.readV r := rfl
@[simp] theorem State.consumeRandom_config (s : State) : s.consumeRandom.config = s.config := rfl
@[simp] theorem State.consumeRandom_halted (s : State) : s.consumeRandom.halted = s.halted := rfl

/-! ## advancePc -/

@[simp] theorem State.advancePc_v (s : State) : s.advancePc.v = s.v := rfl
@[simp] theorem State.advancePc_i (s : State) : s.advancePc.i = s.i := rfl
@[simp] theorem State.advancePc_pc (s : State) : s.advancePc.pc = s.pc + 2 := rfl
@[simp] theorem State.advancePc_stack (s : State) : s.advancePc.stack = s.stack := rfl
@[simp] theorem State.advancePc_mem (s : State) : s.advancePc.mem = s.mem := rfl
@[simp] theorem State.advancePc_disp (s : State) : s.advancePc.disp = s.disp := rfl
@[simp] theorem State.advancePc_dt (s : State) : s.advancePc.dt = s.dt := rfl
@[simp] theorem State.advancePc_st (s : State) : s.advancePc.st = s.st := rfl
@[simp] theorem State.advancePc_keypad (s : State) : s.advancePc.keypad = s.keypad := rfl
@[simp] theorem State.advancePc_fault (s : State) : s.advancePc.fault = s.fault := rfl
@[simp] theorem State.advancePc_params (s : State) : s.advancePc.params = s.params := rfl
@[simp] theorem State.advancePc_tick (s : State) : s.advancePc.tick = s.tick := rfl
@[simp] theorem State.advancePc_inputs (s : State) : s.advancePc.inputs = s.inputs := rfl
@[simp] theorem State.advancePc_draws (s : State) : s.advancePc.draws = s.draws := rfl
@[simp] theorem State.advancePc_readV (s : State) (r : Reg) : s.advancePc.readV r = s.readV r := rfl
@[simp] theorem State.advancePc_config (s : State) : s.advancePc.config = s.config := rfl
@[simp] theorem State.advancePc_halted (s : State) : s.advancePc.halted = s.halted := rfl

/-! ## decayTimers -/

@[simp] theorem State.decayTimers_v (s : State) : s.decayTimers.v = s.v := rfl
@[simp] theorem State.decayTimers_i (s : State) : s.decayTimers.i = s.i := rfl
@[simp] theorem State.decayTimers_pc (s : State) : s.decayTimers.pc = s.pc := rfl
@[simp] theorem State.decayTimers_stack (s : State) : s.decayTimers.stack = s.stack := rfl
@[simp] theorem State.decayTimers_mem (s : State) : s.decayTimers.mem = s.mem := rfl
@[simp] theorem State.decayTimers_disp (s : State) : s.decayTimers.disp = s.disp := rfl
@[simp] theorem State.decayTimers_keypad (s : State) : s.decayTimers.keypad = s.keypad := rfl
@[simp] theorem State.decayTimers_fault (s : State) : s.decayTimers.fault = s.fault := rfl
@[simp] theorem State.decayTimers_params (s : State) : s.decayTimers.params = s.params := rfl
@[simp] theorem State.decayTimers_tick (s : State) : s.decayTimers.tick = s.tick := rfl
@[simp] theorem State.decayTimers_inputs (s : State) : s.decayTimers.inputs = s.inputs := rfl
@[simp] theorem State.decayTimers_readV (s : State) (r : Reg) : s.decayTimers.readV r = s.readV r := rfl
@[simp] theorem State.decayTimers_config (s : State) : s.decayTimers.config = s.config := rfl
@[simp] theorem State.decayTimers_halted (s : State) : s.decayTimers.halted = s.halted := rfl

/-! ## keypadPhase -/

@[simp] theorem State.keypadPhase_v (s : State) (events : List KeyEvent) : (s.keypadPhase events).v = s.v := rfl
@[simp] theorem State.keypadPhase_i (s : State) (events : List KeyEvent) : (s.keypadPhase events).i = s.i := rfl
@[simp] theorem State.keypadPhase_pc (s : State) (events : List KeyEvent) : (s.keypadPhase events).pc = s.pc := rfl
@[simp] theorem State.keypadPhase_stack (s : State) (events : List KeyEvent) : (s.keypadPhase events).stack = s.stack := rfl
@[simp] theorem State.keypadPhase_mem (s : State) (events : List KeyEvent) : (s.keypadPhase events).mem = s.mem := rfl
@[simp] theorem State.keypadPhase_disp (s : State) (events : List KeyEvent) : (s.keypadPhase events).disp = s.disp := rfl
@[simp] theorem State.keypadPhase_dt (s : State) (events : List KeyEvent) : (s.keypadPhase events).dt = s.dt := rfl
@[simp] theorem State.keypadPhase_st (s : State) (events : List KeyEvent) : (s.keypadPhase events).st = s.st := rfl
@[simp] theorem State.keypadPhase_keypad (s : State) (events : List KeyEvent) : (s.keypadPhase events).keypad = s.keypad.update events := rfl
@[simp] theorem State.keypadPhase_fault (s : State) (events : List KeyEvent) : (s.keypadPhase events).fault = s.fault := rfl
@[simp] theorem State.keypadPhase_params (s : State) (events : List KeyEvent) : (s.keypadPhase events).params = s.params := rfl
@[simp] theorem State.keypadPhase_tick (s : State) (events : List KeyEvent) : (s.keypadPhase events).tick = s.tick := rfl
@[simp] theorem State.keypadPhase_inputs (s : State) (events : List KeyEvent) : (s.keypadPhase events).inputs = s.inputs := rfl
@[simp] theorem State.keypadPhase_draws (s : State) (events : List KeyEvent) : (s.keypadPhase events).draws = s.draws := rfl
@[simp] theorem State.keypadPhase_readV (s : State) (events : List KeyEvent) (r : Reg) : (s.keypadPhase events).readV r = s.readV r := rfl
@[simp] theorem State.keypadPhase_config (s : State) (events : List KeyEvent) : (s.keypadPhase events).config = s.config := rfl
@[simp] theorem State.keypadPhase_halted (s : State) (events : List KeyEvent) : (s.keypadPhase events).halted = s.halted := rfl

end Sys2Proof.Machine
end

