-- ==== Sys2Proof/Laws/Memory.lean ====
section
/-! SUPPORT. Memory: read after write, the frame of a write, and that every memory operation keeps the canonical form. -/

namespace Sys2Proof.Machine

/-- A write leaves every other address alone. -/
theorem Memory.read_write_ne (m : Memory) {a a' : Nat} (b : Byte) (h : a' ≠ a) :
    (Memory.write m a b).read a' = Memory.read m a' := by
  induction m with
  | nil => unfold Memory.write; split <;> simp [Memory.read, h]
  | cons e rest ih =>
    obtain ⟨k, c⟩ := e
    unfold Memory.write
    split
    · split <;> simp [Memory.read, h]
    · split
      · subst_vars
        split <;> simp [Memory.read, h]
      · simp [Memory.read, ih]

/-- An address below all listed ones reads as unlisted. -/
theorem Memory.read_of_wfFrom {lo : Nat} {m : Memory} (hm : Memory.wfFrom lo m = true) {a : Nat} (h : a < lo) :
    Memory.read m a = Memory.unlisted a := by
  induction m generalizing lo with
  | nil => rfl
  | cons e rest ih =>
    obtain ⟨k, c⟩ := e
    simp only [Memory.wfFrom, Bool.and_eq_true, decide_eq_true_eq] at hm
    have hne : a ≠ k := by omega
    simp only [Memory.read, if_neg hne]
    exact ih hm.2 (by omega)

/-- Read after write at the same address (R58). -/
theorem Memory.read_write_same_from {lo : Nat} {m : Memory} (hm : Memory.wfFrom lo m = true) (a : Nat) (b : Byte) :
    (Memory.write m a b).read a = b := by
  induction m generalizing lo with
  | nil => unfold Memory.write; split <;> simp_all [Memory.read]
  | cons e rest ih =>
    obtain ⟨k, c⟩ := e
    simp only [Memory.wfFrom, Bool.and_eq_true, decide_eq_true_eq] at hm
    unfold Memory.write
    split
    · rename_i hlt
      have hne : a ≠ k := by omega
      split
      · rename_i hb
        simp only [Memory.read, if_neg hne, hb]
        exact Memory.read_of_wfFrom hm.2 (by omega)
      · simp [Memory.read]
    · split
      · rename_i hak
        split
        · rename_i hb
          rw [hb]; exact Memory.read_of_wfFrom hm.2 (by omega)
        · simp [Memory.read]
      · rename_i hne
        simp only [Memory.read, if_neg hne]
        exact ih hm.2

theorem Memory.read_write_same {m : Memory} (hm : m.wf = true) (a : Nat) (b : Byte) :
    (Memory.write m a b).read a = b := Memory.read_write_same_from hm a b

/-- A read after a write, at any address. -/
theorem Memory.read_write {m : Memory} (hm : m.wf = true) (a a' : Nat) (b : Byte) :
    (Memory.write m a b).read a' = if a' = a then b else Memory.read m a' := by
  by_cases h : a' = a
  · subst h; simp [Memory.read_write_same hm]
  · simp [h, Memory.read_write_ne m b h]

/-- A write at an existing address keeps the canonical form. -/
theorem Memory.wfFrom_write {lo : Nat} {m : Memory} (hm : Memory.wfFrom lo m = true) {a : Nat} (b : Byte)
    (hlo : lo ≤ a) (ha : a < memSize) : Memory.wfFrom lo (Memory.write m a b) = true := by
  induction m generalizing lo with
  | nil => unfold Memory.write; split <;> simp_all [Memory.wfFrom]
  | cons e rest ih =>
    obtain ⟨k, c⟩ := e
    have hm' := hm
    simp only [Memory.wfFrom, Bool.and_eq_true, decide_eq_true_eq] at hm'
    obtain ⟨⟨h1, h2, h3⟩, h4⟩ := hm'
    unfold Memory.write
    split
    · split
      · exact hm
      · simp only [Memory.wfFrom, Bool.and_eq_true, decide_eq_true_eq]
        exact ⟨⟨hlo, ha, by assumption⟩, ⟨by omega, h2, h3⟩, h4⟩
    · split
      · rename_i hak
        subst hak
        split
        · exact Memory.wfFrom_mono h4 (by omega)
        · simp only [Memory.wfFrom, Bool.and_eq_true, decide_eq_true_eq]
          exact ⟨⟨h1, h2, by assumption⟩, h4⟩
      · simp only [Memory.wfFrom, Bool.and_eq_true, decide_eq_true_eq]
        exact ⟨⟨h1, h2, h3⟩, ih h4 (by omega)⟩
where
  Memory.wfFrom_mono {lo lo' : Nat} {m : Memory} (hm : Memory.wfFrom lo' m = true) (h : lo ≤ lo') :
      Memory.wfFrom lo m = true := by
    cases m with
    | nil => rfl
    | cons e rest =>
      simp only [Memory.wfFrom, Bool.and_eq_true, decide_eq_true_eq] at hm ⊢
      exact ⟨⟨by omega, hm.1.2⟩, hm.2⟩

theorem Memory.wf_write {m : Memory} (hm : m.wf = true) {a : Nat} (b : Byte) (ha : a < memSize) :
    (Memory.write m a b).wf = true := Memory.wfFrom_write hm b (Nat.zero_le a) ha

/-- Storing bytes at existing addresses keeps the canonical form. -/
theorem Memory.wf_writeBytes {m : Memory} (hm : m.wf = true) (base : Nat) (bs : List Byte)
    (h : base + bs.length ≤ memSize) : (Memory.writeBytes m base bs).wf = true := by
  induction bs generalizing m base with
  | nil => exact hm
  | cons b bs ih =>
    simp only [List.length_cons] at h
    exact ih (Memory.wf_write hm b (by omega)) (base + 1) (by omega)

/-- The frame of a store of bytes. -/
theorem Memory.read_writeBytes_ne (m : Memory) (base : Nat) (bs : List Byte) (a : Nat)
    (h : a < base ∨ base + bs.length ≤ a) : (Memory.writeBytes m base bs).read a = Memory.read m a := by
  induction bs generalizing m base with
  | nil => rfl
  | cons b bs ih =>
    simp only [List.length_cons] at h
    simp only [Memory.writeBytes]
    rw [ih _ _ (by omega), Memory.read_write_ne _ _ (by omega)]

/-- The bytes a store has put in memory, one by one. -/
theorem Memory.read_writeBytes {m : Memory} (hm : m.wf = true) (base : Nat) (bs : List Byte)
    (h : base + bs.length ≤ memSize) (k : Nat) (hk : k < bs.length) :
    (Memory.writeBytes m base bs).read (base + k) = bs[k] := by
  induction bs generalizing m base k with
  | nil => simp at hk
  | cons b bs ih =>
    simp only [List.length_cons] at h hk
    simp only [Memory.writeBytes]
    cases k with
    | zero =>
      rw [Memory.read_writeBytes_ne _ _ _ _ (by omega)]
      simp [Memory.read_write_same hm]
    | succ k =>
      have := ih (Memory.wf_write hm (a := base) b (by omega)) (base + 1) (by omega) k (by omega)
      rw [show base + (k + 1) = base + 1 + k by omega, this]
      simp

/-- Memory after reset is in canonical form. -/
theorem State.reset_mem_wf : State.reset.mem.wf = true := rfl

/-- Memory after `init` is in canonical form, for every image construction accepts (R271). -/
theorem initMemory_wf (p : Params) (h : p.image.length ≤ maxImage) : (initMemory p).wf = true := by
  unfold initMemory
  refine Memory.wf_writeBytes (Memory.wf_writeBytes rfl _ _ ?_) _ _ ?_
  · simp [fontBase, memSize]
  · simp only [programBase, maxImage, memSize] at *; omega

end Sys2Proof.Machine
end

