-- ==== Sys2Proof/Laws/Registers.lean ====
section
/-! SUPPORT. Registers, tabulated files, flags and the conditional updates. -/

namespace Sys2Proof.Machine

/-- `tabulate f` holds `f k` at `k`. -/
@[simp] theorem tabulate_get {α : Type} (f : Fin 16 → α) (k : Fin 16) : (tabulate f)[k] = f k := by
  fin_cases k <;> rfl

/-- Reading a register after a write (R20). -/
theorem State.readV_writeV (s : State) (x r : Reg) (b : Byte) :
    (s.writeV x b).readV r = if r = x then b else s.readV r := by
  simp only [State.readV, State.writeV, Fin.getElem_fin, Vector.getElem_set]
  by_cases h : r = x
  · subst h; simp
  · have h' : ¬ (x : Nat) = r := fun e => h (Fin.ext e.symm)
    simp [h, h']

@[simp] theorem State.readV_writeV_same (s : State) (x : Reg) (b : Byte) : (s.writeV x b).readV x = b := by
  simp [State.readV_writeV]

theorem State.readV_writeV_ne (s : State) {x r : Reg} (b : Byte) (h : r ≠ x) :
    (s.writeV x b).readV r = s.readV r := by
  simp [State.readV_writeV, h]

/-- Reading a register after the flag is written (R143). -/
theorem State.readV_writeFlag (s : State) (r : Reg) (b : Bool) :
    (s.writeFlag b).readV r = if r = vf then flagByte b else s.readV r := s.readV_writeV vf r _

/-- A register after FX65's load (R165). -/
theorem State.readV_loadRegs (s : State) (x r : Reg) :
    (s.loadRegs x).readV r = if r ≤ x then s.mem.read (s.indexAddr r.val) else s.readV r := by
  have := tabulate_get (fun k : Fin 16 => if k ≤ x then s.mem.read (s.indexAddr k.val) else s.readV k) r
  exact this

/-- The register after the VF_RESET quirk (R133 to R135). -/
theorem State.readV_clearFlagIfVfReset (s : State) (r : Reg) :
    s.clearFlagIfVfReset.readV r = if s.config.vfReset = true ∧ r = vf then 0 else s.readV r := by
  unfold State.clearFlagIfVfReset
  by_cases h : s.config.vfReset = true
  · simp [h, State.readV_writeV]
  · simp [h]

/-- The quirk touches the register file alone. -/
theorem State.clearFlagIfVfReset_eq (s : State) : ∃ v, s.clearFlagIfVfReset = { s with v := v } := by
  unfold State.clearFlagIfVfReset
  by_cases h : s.config.vfReset = true
  · exact ⟨_, by simp only [h, if_true]; rfl⟩
  · exact ⟨s.v, by simp [h]⟩

/-- A skip touches `pc` alone (R118). -/
theorem State.skipIf_eq (s : State) (c : Bool) :
    s.skipIf c = s.setPc (if c then s.pc + 2 else s.pc) := by
  cases c <;> rfl

@[simp] theorem State.skipIf_pc (s : State) (c : Bool) :
    (s.skipIf c).pc = if c then s.pc + 2 else s.pc := by
  cases c <;> rfl

/-! ## The conditional updates, field by field -/

@[simp] theorem State.skipIf_v (s : State) (c : Bool) : (s.skipIf c).v = s.v := by cases c <;> rfl
@[simp] theorem State.skipIf_i (s : State) (c : Bool) : (s.skipIf c).i = s.i := by cases c <;> rfl
@[simp] theorem State.skipIf_stack (s : State) (c : Bool) : (s.skipIf c).stack = s.stack := by cases c <;> rfl
@[simp] theorem State.skipIf_mem (s : State) (c : Bool) : (s.skipIf c).mem = s.mem := by cases c <;> rfl
@[simp] theorem State.skipIf_disp (s : State) (c : Bool) : (s.skipIf c).disp = s.disp := by cases c <;> rfl
@[simp] theorem State.skipIf_dt (s : State) (c : Bool) : (s.skipIf c).dt = s.dt := by cases c <;> rfl
@[simp] theorem State.skipIf_st (s : State) (c : Bool) : (s.skipIf c).st = s.st := by cases c <;> rfl
@[simp] theorem State.skipIf_keypad (s : State) (c : Bool) : (s.skipIf c).keypad = s.keypad := by cases c <;> rfl
@[simp] theorem State.skipIf_fault (s : State) (c : Bool) : (s.skipIf c).fault = s.fault := by cases c <;> rfl
@[simp] theorem State.skipIf_params (s : State) (c : Bool) : (s.skipIf c).params = s.params := by cases c <;> rfl
@[simp] theorem State.skipIf_tick (s : State) (c : Bool) : (s.skipIf c).tick = s.tick := by cases c <;> rfl
@[simp] theorem State.skipIf_inputs (s : State) (c : Bool) : (s.skipIf c).inputs = s.inputs := by cases c <;> rfl
@[simp] theorem State.skipIf_draws (s : State) (c : Bool) : (s.skipIf c).draws = s.draws := by cases c <;> rfl
@[simp] theorem State.skipIf_readV (s : State) (c : Bool) (r : Reg) : (s.skipIf c).readV r = s.readV r := by
  cases c <;> rfl

@[simp] theorem State.clearFlagIfVfReset_i (s : State) : s.clearFlagIfVfReset.i = s.i := by
  unfold State.clearFlagIfVfReset; split <;> rfl
@[simp] theorem State.clearFlagIfVfReset_stack (s : State) : s.clearFlagIfVfReset.stack = s.stack := by
  unfold State.clearFlagIfVfReset; split <;> rfl
@[simp] theorem State.clearFlagIfVfReset_mem (s : State) : s.clearFlagIfVfReset.mem = s.mem := by
  unfold State.clearFlagIfVfReset; split <;> rfl
@[simp] theorem State.clearFlagIfVfReset_disp (s : State) : s.clearFlagIfVfReset.disp = s.disp := by
  unfold State.clearFlagIfVfReset; split <;> rfl
@[simp] theorem State.clearFlagIfVfReset_dt (s : State) : s.clearFlagIfVfReset.dt = s.dt := by
  unfold State.clearFlagIfVfReset; split <;> rfl
@[simp] theorem State.clearFlagIfVfReset_st (s : State) : s.clearFlagIfVfReset.st = s.st := by
  unfold State.clearFlagIfVfReset; split <;> rfl
@[simp] theorem State.clearFlagIfVfReset_keypad (s : State) : s.clearFlagIfVfReset.keypad = s.keypad := by
  unfold State.clearFlagIfVfReset; split <;> rfl
@[simp] theorem State.clearFlagIfVfReset_fault (s : State) : s.clearFlagIfVfReset.fault = s.fault := by
  unfold State.clearFlagIfVfReset; split <;> rfl
@[simp] theorem State.clearFlagIfVfReset_params (s : State) : s.clearFlagIfVfReset.params = s.params := by
  unfold State.clearFlagIfVfReset; split <;> rfl
@[simp] theorem State.clearFlagIfVfReset_tick (s : State) : s.clearFlagIfVfReset.tick = s.tick := by
  unfold State.clearFlagIfVfReset; split <;> rfl
@[simp] theorem State.clearFlagIfVfReset_inputs (s : State) : s.clearFlagIfVfReset.inputs = s.inputs := by
  unfold State.clearFlagIfVfReset; split <;> rfl
@[simp] theorem State.clearFlagIfVfReset_draws (s : State) : s.clearFlagIfVfReset.draws = s.draws := by
  unfold State.clearFlagIfVfReset; split <;> rfl
@[simp] theorem State.clearFlagIfVfReset_pc (s : State) : s.clearFlagIfVfReset.pc = s.pc := by
  unfold State.clearFlagIfVfReset; split <;> rfl

end Sys2Proof.Machine
end

