-- ==== Sys2Proof/Laws/Ops.lean ====
section
/-! SUPPORT. What each shared operation can answer, said once: the range check, the call stack, the display, a raised
fault. -/

namespace Sys2Proof.Machine

/-! ## The range check (R52, R60, R242) -/

/-- A range is free of bad addresses exactly when its last one exists. -/
theorem firstOutOfRange_eq_none (base count : Nat) :
    firstOutOfRange base count = none ↔ count = 0 ∨ base + count ≤ memSize := by
  simp only [firstOutOfRange, List.findSome?_eq_none_iff, List.mem_range]
  constructor
  · intro h
    rcases Nat.eq_zero_or_pos count with h0 | h0
    · exact .inl h0
    · right
      have := h (count - 1) (by omega)
      split at this
      · omega
      · cases this
  · intro h k hk
    rw [if_pos (by omega)]

/-- Splitting the last address off a range check. -/
theorem firstOutOfRange_succ (base n : Nat) :
    firstOutOfRange base (n + 1) =
      (firstOutOfRange base n).or (if base + n < memSize then none else some (base + n)) := by
  simp [firstOutOfRange, List.range_succ, List.findSome?_append]

/-- The lowest bad address: the base itself when it is bad, else the first above 0xFFF (R242). -/
theorem firstOutOfRange_eq_some (base count a : Nat) :
    firstOutOfRange base count = some a ↔ 0 < count ∧ memSize < base + count ∧ a = max base memSize := by
  induction count with
  | zero => simp [firstOutOfRange]
  | succ n ih =>
    rw [firstOutOfRange_succ]
    cases hb : firstOutOfRange base n with
    | none =>
      rw [firstOutOfRange_eq_none] at hb
      simp only [Option.none_or]
      split
      · simp only [reduceCtorEq, false_iff]; omega
      · simp only [Option.some.injEq]; omega
    | some c =>
      rw [Option.some_or, ← hb, ih]
      rw [hb] at ih
      constructor
      · intro h; omega
      · intro h
        by_cases hn : 0 < n ∧ memSize < base + n
        · exact ⟨hn.1, hn.2, h.2.2⟩
        · have := (firstOutOfRange_eq_none base n).2 (by omega)
          rw [this] at hb; cases hb

/-- The bad address fits in 16 bits where the base does (R242). -/
theorem firstOutOfRange_lt {base count a : Nat} (h : firstOutOfRange base count = some a) (hb : base < 65536) :
    memSize ≤ a ∧ a < 65536 := by
  rw [firstOutOfRange_eq_some] at h
  simp only [memSize] at *; omega

/-- Everything a checked data access can do. -/
theorem withRange_cases (i : Instr) (count : Nat) (s e : State) :
    ((count = 0 ∨ s.i.toNat + count ≤ memSize) ∧ withRange i count s e = .next e) ∨
    (0 < count ∧ memSize < s.i.toNat + count ∧
      withRange i count s e =
        .next (s.enterFault .addressOutOfRange (s.pc - 2) (encode i) (BitVec.ofNat 16 (max s.i.toNat memSize)))) := by
  unfold withRange
  cases h : firstOutOfRange s.i.toNat count with
  | none => exact .inl ⟨(firstOutOfRange_eq_none _ _).1 h, rfl⟩
  | some a =>
    obtain ⟨h1, h2, h3⟩ := (firstOutOfRange_eq_some _ _ _).1 h
    exact .inr ⟨h1, h2, by rw [h3]; rfl⟩

theorem withRange_ok {i : Instr} {count : Nat} {s e : State} (h : count = 0 ∨ s.i.toNat + count ≤ memSize) :
    withRange i count s e = .next e := by
  simp only [withRange, (firstOutOfRange_eq_none s.i.toNat count).2 h]

/-! ## The call stack (R28) -/

/-- Everything a push can do. -/
theorem CallStack.push_cases (k : CallStack) (w : Word) :
    (∃ h : k.sp.val < 16, ∃ k', k.push w = some k' ∧ k'.sp.val = k.sp.val + 1 ∧
      k'.entries = k.entries.set k.sp.val w h) ∨
    (k.sp = 16 ∧ k.push w = none) := by
  unfold CallStack.push
  by_cases h : k.sp.val < 16
  · exact .inl ⟨h, _, dif_pos h, rfl, rfl⟩
  · exact .inr ⟨Fin.ext (by have := k.sp.isLt; simp; omega), dif_neg h⟩

/-- Everything a pop can do. -/
theorem CallStack.pop_cases (k : CallStack) :
    (∃ h : 0 < k.sp.val, ∃ k', k.pop = some (k.entries[k.sp.val - 1]'(by omega), k') ∧
      k'.sp.val = k.sp.val - 1 ∧ k'.entries = k.entries) ∨
    (k.sp = 0 ∧ k.pop = none) := by
  unfold CallStack.pop
  by_cases h : 0 < k.sp.val
  · exact .inl ⟨h, _, dif_pos h, rfl, rfl⟩
  · exact .inr ⟨Fin.ext (by simp; omega), dif_neg h⟩

/-! ## The display (R29) -/

@[simp] theorem Display.clear_cell (y : Fin 32) (x : Fin 64) : Display.cell Display.clear y x = false := by
  simp [Display.cell, Display.clear]

/-- A toggle changes one cell. -/
theorem Display.cell_toggle (d : Display) (y y' : Fin 32) (x x' : Fin 64) :
    (d.toggle y x).cell y' x' = if y' = y ∧ x' = x then !d.cell y' x' else d.cell y' x' := by
  simp only [Display.cell, Display.toggle, Fin.getElem_fin, Vector.getElem_set]
  by_cases hy : (y : Nat) = y'
  · have : y' = y := Fin.ext hy.symm
    subst this
    by_cases hx : (x : Nat) = x'
    · have : x' = x := Fin.ext hx.symm
      subst this; simp
    · have : x' ≠ x := fun e => hx (by rw [e])
      simp [hx, this]
  · have : y' ≠ y := fun e => hy (by rw [e])
    simp [hy, this]

/-- Two displays with the same cells are equal. -/
theorem Display.ext_cell {d e : Display} (h : ∀ y x, d.cell y x = e.cell y x) : d = e := by
  apply Vector.ext
  intro y hy
  apply Vector.ext
  intro x hx
  exact h ⟨y, hy⟩ ⟨x, hx⟩

end Sys2Proof.Machine
end

