-- ==== Sys2Proof/Laws/Devices.lean ====
section
/-! SUPPORT. The keypad's and the timers' small functions: what each answers, said once. -/

namespace Sys2Proof.Machine

/-- An age grows by one up to AGE_MAX (R200). -/
theorem ageStep_toNat (a : Byte) : (ageStep a).toNat = min (a.toNat + 1) 255 := by
  revert a; decide

@[simp] theorem Keypad.age_pressAge (p : Keypad) (k : Key) : p.age.pressAge[k] = ageStep p.pressAge[k] :=
  tabulate_get (fun j => ageStep p.pressAge[j]) k

@[simp] theorem Keypad.age_releaseAge (p : Keypad) (k : Key) : p.age.releaseAge[k] = ageStep p.releaseAge[k] :=
  tabulate_get (fun j => ageStep p.releaseAge[j]) k

/-- A key reads as pressed exactly at ages 0 to 3 (R203). -/
theorem Keypad.isPressed_iff (p : Keypad) (k : Key) : p.isPressed k = true ↔ (p.pressAge[k]).toNat ≤ 3 := by
  unfold Keypad.isPressed debounceWindow
  exact decide_eq_true_iff

/-- A key reads as released exactly at ages 0 to 3 (R204). -/
theorem Keypad.isReleased_iff (p : Keypad) (k : Key) : p.isReleased k = true ↔ (p.releaseAge[k]).toNat ≤ 3 := by
  unfold Keypad.isReleased debounceWindow
  exact decide_eq_true_iff

/-- A press age after one event (R201, R202). -/
theorem Keypad.event_pressAge (p : Keypad) (e : KeyEvent) (k : Key) :
    (p.event e).pressAge[k] = if e = { key := k, kind := .pressed } then 0 else p.pressAge[k] := by
  obtain ⟨ek, kind⟩ := e
  cases kind
  · simp only [Keypad.event, Fin.getElem_fin, Vector.getElem_set, KeyEvent.mk.injEq, and_true]
    by_cases h : ek = k
    · subst h; simp
    · rw [if_neg (fun e => h (Fin.ext e)), if_neg h]
  · simp [Keypad.event]

/-- A release age after one event (R201, R202). -/
theorem Keypad.event_releaseAge (p : Keypad) (e : KeyEvent) (k : Key) :
    (p.event e).releaseAge[k] = if e = { key := k, kind := .released } then 0 else p.releaseAge[k] := by
  obtain ⟨ek, kind⟩ := e
  cases kind
  · simp [Keypad.event]
  · simp only [Keypad.event, Fin.getElem_fin, Vector.getElem_set, KeyEvent.mk.injEq, and_true]
    by_cases h : ek = k
    · subst h; simp
    · rw [if_neg (fun e => h (Fin.ext e)), if_neg h]

/-- A key operand in range names its key (R206). -/
theorem keyArg_of_le {mode : KeyIndexMode} {b : Byte} {k : Key} (h : b.toNat = k.val) : keyArg mode b = some k := by
  have := k.isLt
  unfold keyArg
  rw [dif_pos (by omega)]
  exact congrArg some (Fin.ext h)

/-- A key operand out of range, masked (R206). -/
theorem keyArg_mask {b : Byte} {k : Key} (h : 0xF < b.toNat) (hk : b.toNat % 16 = k.val) :
    keyArg .mask b = some k := by
  unfold keyArg
  rw [dif_neg (by omega)]
  exact congrArg some (Fin.ext (by simp [BitVec.extractLsb', hk]))

/-- A key operand out of range, faulting (R206). -/
theorem keyArg_fault {b : Byte} (h : 0xF < b.toNat) : keyArg .fault b = none := by
  unfold keyArg
  rw [dif_neg (by omega)]

/-- Saturating decay (R221). -/
theorem decay_saturate (b free : Byte) : (decay .saturate b free).toNat = b.toNat - 1 := by
  simp only [decay]; revert b; decide

/-- The mod60 decay of 0 to 59 (R222). -/
theorem decay_mod60 {b : Byte} (free : Byte) (h : b.toNat < 60) :
    (decay .mod60 b free).toNat = (b.toNat + 59) % 60 := by
  simp only [decay, h, if_true, BitVec.toNat_ofNat]; omega

end Sys2Proof.Machine
end

