-- ==== Sys2Proof/Laws/Exec.lean ====
section
/-! SUPPORT. What exec, a slot and a step can answer, said once: an instruction always answers a next state. -/

namespace Sys2Proof.Machine

/-- A raised fault is a next state: the entry of R243 with `pc` back at the instruction (R244). -/
theorem raise_eq (i : Instr) (c : Fault) (a : Word) (s : State) :
    raise i c a s = .next (s.enterFault c (s.pc - 2) (encode i) a) := rfl

/-- A checked access always answers a next state. -/
theorem withRange_next (i : Instr) (count : Nat) (s e : State) : ∃ t, withRange i count s e = .next t := by
  rcases withRange_cases i count s e with h | h
  · exact ⟨_, h.2⟩
  · exact ⟨_, h.2.2⟩

/-- No instruction stops the machine: its effect, or the fault it takes, is a next state. -/
theorem exec_next (i : Instr) (s : State) : ∃ t, exec i s = .next t := by
  cases i with
  | ret =>
    rcases s.stack.pop_cases with ⟨_, k, h, _⟩ | ⟨_, h⟩ <;> simp [exec, execRet, raise, h]
  | call nnn =>
    rcases s.stack.push_cases s.pc with ⟨_, k, h, _⟩ | ⟨_, h⟩ <;> simp [exec, execCall, raise, h]
  | skp x =>
    simp only [exec, execSkp, raise]
    cases keyArg s.config.keyIndex (s.readV x) <;> exact ⟨_, rfl⟩
  | sknp x =>
    simp only [exec, execSknp, raise]
    cases keyArg s.config.keyIndex (s.readV x) <;> exact ⟨_, rfl⟩
  | ldVxK x =>
    simp only [exec, execLdVxK]
    split <;> exact ⟨_, rfl⟩
  | drw x y n => exact withRange_next _ _ _ _
  | ldB x => exact withRange_next _ _ _ _
  | ldMemVx x => exact withRange_next _ _ _ _
  | ldVxMem x => exact withRange_next _ _ _ _
  | _ => exact ⟨_, rfl⟩

/-- What fetch answers, by the range of `pc` (R91, R92). -/
theorem State.fetch_cases (s : State) :
    (s.pc.toNat ≤ 0xFFE ∧
      s.fetch = .ok (wordOfBytes (s.mem.read s.pc.toNat) (s.mem.read (s.pc.toNat + 1)))) ∨
    (0xFFF ≤ s.pc.toNat ∧ s.fetch = .error (max s.pc.toNat memSize)) := by
  unfold State.fetch
  cases h : firstOutOfRange s.pc.toNat 2 with
  | none =>
    rw [firstOutOfRange_eq_none] at h
    exact .inl ⟨by simp only [memSize] at h; omega, rfl⟩
  | some a =>
    obtain ⟨-, h2, h3⟩ := (firstOutOfRange_eq_some _ _ _).1 h
    exact .inr ⟨by simp only [memSize] at h2; omega, by rw [h3]⟩

/-- Everything a slot of a core that is not halted can do (R98). -/
theorem stepInstr_cases (s : State) (hs : s.fault = none) :
    (0xFFF ≤ s.pc.toNat ∧ stepInstr s =
      .next (s.enterFault .addressOutOfRange s.pc 0 (BitVec.ofNat 16 (max s.pc.toNat memSize)))) ∨
    (s.pc.toNat ≤ 0xFFE ∧ ∃ w r, s.fetch = .ok w ∧ decode w = .error r ∧
      stepInstr s = .next (s.enterFault .unknownOpcode s.pc w 0)) ∨
    (s.pc.toNat ≤ 0xFFE ∧ ∃ w i, s.fetch = .ok w ∧ decode w = .ok i ∧ stepInstr s = exec i s.advancePc) := by
  have hh : s.halted = false := by simp [State.halted, hs]
  unfold stepInstr
  rcases s.fetch_cases with ⟨hp, hf⟩ | ⟨hp, hf⟩
  · simp only [hh, hf, Bool.false_eq_true, if_false]
    cases hd : decode (wordOfBytes (s.mem.read s.pc.toNat) (s.mem.read (s.pc.toNat + 1))) with
    | error r => exact .inr (.inl ⟨hp, _, r, rfl, hd, rfl⟩)
    | ok i => exact .inr (.inr ⟨hp, _, i, rfl, hd, rfl⟩)
  · left
    simp only [hh, hf, Bool.false_eq_true, if_false]
    exact ⟨hp, trivial⟩

/-- A slot always answers a next state. -/
theorem stepInstr_next (s : State) : ∃ t, stepInstr s = .next t := by
  cases hs : s.fault with
  | some f =>
    exact ⟨s, by simp [stepInstr, State.halted, hs]⟩
  | none =>
    rcases stepInstr_cases s hs with h | ⟨_, w, r, _, _, h⟩ | ⟨_, w, i, _, _, h⟩
    · exact ⟨_, h.2⟩
    · exact ⟨_, h⟩
    · rw [h]; exact exec_next i _

/-- A batch always answers a next state. -/
theorem runBatch_next (n : Nat) (s : State) : ∃ t, runBatch n s = .next t := by
  induction n generalizing s with
  | zero => exact ⟨s, rfl⟩
  | succ n ih =>
    obtain ⟨t, ht⟩ := stepInstr_next s
    simp only [runBatch, ht]
    split
    · exact ⟨t, rfl⟩
    · exact ih t

/-- A slot inside a tick always answers a next state. -/
theorem State.slotInTick_next (s : State) (n : Nat) : ∃ t, s.slotInTick n = .next t := by
  unfold State.slotInTick
  split
  · exact ⟨_, rfl⟩
  · cases n with
    | zero => exact ⟨_, rfl⟩
    | succ n =>
      obtain ⟨t, ht⟩ := stepInstr_next s
      simp only [ht]; exact ⟨_, rfl⟩

/-- Everything a slot inside a tick of a running core can do: it is a slot and then the end of the slot. -/
theorem State.slotInTick_succ (s : State) (n : Nat) (hs : s.fault = none) :
    ∃ t, stepInstr s = .next t ∧ s.slotInTick (n + 1) = .next (t.closeSlot n) := by
  obtain ⟨t, ht⟩ := stepInstr_next s
  exact ⟨t, ht, by simp [State.slotInTick, State.halted, hs, ht]⟩

/-- A tick's first step always answers a next state. -/
theorem State.beginTick_next (s : State) (events : List KeyEvent) : ∃ t, s.beginTick events = .next t := by
  unfold State.beginTick
  split
  · exact ⟨_, rfl⟩
  · exact State.slotInTick_next _ _

/-- Everything a step can do: it runs inside a batch, begins a tick, resets, or takes an ignored write. -/
theorem step_cases (s : State) :
    (∃ n, s.tick = .batch n ∧ step s = s.slotInTick n) ∨
    (s.tick = .boundary ∧ s.inputs = [] ∧ step s = s.beginTick []) ∨
    (s.tick = .boundary ∧ ∃ ev rest, s.inputs = .tick ev :: rest ∧ step s = (s.setInputs rest).beginTick ev) ∨
    (s.tick = .boundary ∧ ∃ rest, s.inputs = .reset :: rest ∧ step s = (s.setInputs rest).restart) ∨
    (s.tick = .boundary ∧ ∃ o v rest, s.inputs = .writeRegister o v :: rest ∧
      step s = .next (s.setInputs rest)) := by
  unfold step State.sequence
  cases ht : s.tick with
  | batch n => exact .inl ⟨n, rfl, rfl⟩
  | boundary =>
    right
    simp only [State.hostMove]
    cases hi : s.inputs with
    | nil => exact .inl ⟨trivial, rfl, rfl⟩
    | cons m rest =>
      cases m with
      | tick ev => exact .inr (.inl ⟨trivial, ev, rest, rfl, rfl⟩)
      | reset => exact .inr (.inr (.inl ⟨trivial, rest, rfl, rfl⟩))
      | writeRegister o v => exact .inr (.inr (.inr ⟨trivial, o, v, rest, rfl, rfl⟩))

/-- The host's reset answers the initial state of the kept parameters, or refuses an over-long image. -/
theorem State.restart_cases (s : State) :
    (s.params.image.length ≤ maxImage ∧
      s.restart = .next (((State.init s.params).setInputs s.inputs).setDraws s.draws)) ∨
    (maxImage < s.params.image.length ∧ s.restart = .refused .imageTooLong) := by
  unfold State.restart construct
  by_cases h : s.params.image.length ≤ maxImage
  · exact .inl ⟨h, by simp [h]⟩
  · exact .inr ⟨by omega, by simp [h]⟩

end Sys2Proof.Machine
end

