-- ==== Sys2Proof/Laws/Effects.lean ====
section
/-! SUPPORT. Everything an instruction can do to the parts that invariants are about, said once; that a slot does not
look at where the tick stands; and the one induction step over what a step of the machine is made of. -/

namespace Sys2Proof.Machine

/-! ## A slot does not depend on where the tick stands -/

/-- A function of states applied to the next state of a result. -/
def mapNext (f : State → State) : Host.Outcome State Fault Refusal → Host.Outcome State Fault Refusal
  | .next t => .next (f t)
  | .fault r => .fault r
  | .refused r => .refused r

theorem State.skipIf_setTick (s : State) (a : TickPhase) (b : Bool) :
    (s.setTick a).skipIf b = (s.skipIf b).setTick a := by cases b <;> rfl

theorem State.clearFlagIfVfReset_setTick (s : State) (a : TickPhase) :
    (s.setTick a).clearFlagIfVfReset = s.clearFlagIfVfReset.setTick a := by
  unfold State.clearFlagIfVfReset; rw [State.setTick_config]; by_cases h : s.config.vfReset = true
  · rw [if_pos h, if_pos h]; rfl
  · rw [if_neg h, if_neg h]
/-- An instruction neither reads nor writes the place in the tick. -/
theorem exec_setTick (i : Instr) (s : State) (a : TickPhase) :
    exec i (s.setTick a) = mapNext (·.setTick a) (exec i s) := by
  cases i with
  | ret =>
    rcases s.stack.pop_cases with ⟨_, k, h, _⟩ | ⟨_, h⟩ <;> simp [exec, execRet, raise, h, mapNext] <;> rfl
  | call nnn =>
    rcases s.stack.push_cases s.pc with ⟨_, k, h, _⟩ | ⟨_, h⟩ <;> simp [exec, execCall, raise, h, mapNext] <;> rfl
  | skp x =>
    simp only [exec, execSkp, raise, State.setTick_config, State.setTick_readV]
    cases keyArg s.config.keyIndex (s.readV x)
    · rfl
    · exact congrArg Host.Outcome.next (State.skipIf_setTick s a _)
  | sknp x =>
    simp only [exec, execSknp, raise, State.setTick_config, State.setTick_readV]
    cases keyArg s.config.keyIndex (s.readV x)
    · rfl
    · exact congrArg Host.Outcome.next (State.skipIf_setTick s a _)
  | ldVxK x =>
    show execLdVxK x (s.setTick a) = mapNext _ (execLdVxK x s)
    unfold execLdVxK
    by_cases h : s.keypad.pending.fresh = true
    · have h' : (s.setTick a).keypad.pending.fresh = true := h
      rw [if_pos h, if_pos h']; rfl
    · have h' : ¬ (s.setTick a).keypad.pending.fresh = true := h
      rw [if_neg h, if_neg h']; rfl
  | drw x y n => simp only [exec, execDrw, withRange, State.setTick_i]; cases firstOutOfRange s.i.toNat n <;> rfl
  | ldB x => simp only [exec, execLdB, withRange, State.setTick_i]; cases firstOutOfRange s.i.toNat 3 <;> rfl
  | ldMemVx x => simp only [exec, execLdMemVx, withRange, State.setTick_i]; cases firstOutOfRange s.i.toNat _ <;> rfl
  | ldVxMem x => simp only [exec, execLdVxMem, withRange, State.setTick_i]; cases firstOutOfRange s.i.toNat _ <;> rfl
  | seImm x nn => exact congrArg Host.Outcome.next (State.skipIf_setTick s a _)
  | sneImm x nn => exact congrArg Host.Outcome.next (State.skipIf_setTick s a _)
  | seReg x nn => exact congrArg Host.Outcome.next (State.skipIf_setTick s a _)
  | sneReg x nn => exact congrArg Host.Outcome.next (State.skipIf_setTick s a _)
  | orReg x y => exact congrArg Host.Outcome.next (State.clearFlagIfVfReset_setTick (s.writeV x _) a)
  | andReg x y => exact congrArg Host.Outcome.next (State.clearFlagIfVfReset_setTick (s.writeV x _) a)
  | xorReg x y => exact congrArg Host.Outcome.next (State.clearFlagIfVfReset_setTick (s.writeV x _) a)
  | addI x =>
    simp only [exec, execAddI, mapNext]
    by_cases h : s.config.amigaBehaviour = true
    · have h' : (s.setTick a).config.amigaBehaviour = true := h
      rw [if_pos h, if_pos h']; rfl
    · have h' : ¬ (s.setTick a).config.amigaBehaviour = true := h
      rw [if_neg h, if_neg h']; rfl
  | _ => rfl

/-- Nor does a slot. -/
theorem stepInstr_setTick (s : State) (a : TickPhase) :
    stepInstr (s.setTick a) = mapNext (·.setTick a) (stepInstr s) := by
  unfold stepInstr
  have e1 : (s.setTick a).fetch = s.fetch := rfl
  have e2 : (s.setTick a).halted = s.halted := rfl
  rw [e1, e2]
  cases s.halted
  · cases s.fetch with
    | error x => rfl
    | ok w =>
      simp only [Bool.false_eq_true, if_false]
      cases decode w with
      | error x => rfl
      | ok i => exact exec_setTick i s.advancePc a
  · rfl

/-! ## What an instruction can do -/

/-- What a checked access answers, with the bad address out of range (R242). -/
theorem withRange_inv (i : Instr) (c : Nat) (s e t : State) (h : withRange i c s e = .next t) :
    (c = 0 ∨ s.i.toNat + c ≤ memSize) ∧ t = e ∨
    ∃ w, 0xFFF < BitVec.toNat w ∧ t = s.enterFault .addressOutOfRange (s.pc - 2) (encode i) w := by
  rcases withRange_cases i c s e with ⟨hh, h'⟩ | ⟨h1, h2, h'⟩ <;> rw [h'] at h <;> cases h
  · exact .inl ⟨hh, rfl⟩
  · refine .inr ⟨_, ?_, rfl⟩
    have := s.i.isLt
    simp only [memSize, BitVec.toNat_ofNat] at *; omega

/-- What any instruction leaves: the parameters and the model's record of the tick are not touched, memory keeps its form,
the keypad changes only by the consumption of a key, a fault raised is one of R241 at `pc`, and the bounds of R24 hold. -/
structure ExecEffect (i : Instr) (s t : State) : Prop where
  params_eq : t.params = s.params
  tick_eq : t.tick = s.tick
  inputs_eq : t.inputs = s.inputs
  mem_wf : s.mem.wf = true → t.mem.wf = true
  keypad_or : t.keypad = s.keypad ∨ t.keypad = s.keypad.consume
  fault_or : t.fault = s.fault ∨ ∃ f, t.fault = some f ∧ f.pc = t.pc ∧ (decode (encode i) = .ok i → f.fits)
  bounds : (∀ k : Fin 16, (s.stack.entries[k]).toNat ≤ 0x1000) → s.pc.toNat ≤ 0x1000 → 2 ≤ s.pc.toNat →
    (∀ k : Fin 16, (t.stack.entries[k]).toNat ≤ 0x1000) ∧ t.pc.toNat ≤ 0x10FE

/-- The effect of a raised fault. -/
theorem raise_effect (i : Instr) (s : State) (c : Fault) (a : Word)
    (hf : decode (encode i) = .ok i → FaultRecord.fits ⟨c, s.pc - 2, encode i, a⟩) :
    ExecEffect i s (s.enterFault c (s.pc - 2) (encode i) a) := by
  refine ⟨rfl, rfl, rfl, id, .inl rfl, .inr ⟨_, rfl, rfl, hf⟩, fun h1 h2 h3 => ⟨h1, ?_⟩⟩
  show (s.pc - 2#16).toNat ≤ _
  have := s.pc.isLt
  rw [BitVec.toNat_sub, show (2#16).toNat = 2 from rfl]; omega

/-- The effect of a skip. -/
theorem skipIf_effect (i : Instr) (s : State) (b : Bool) : ExecEffect i s (s.skipIf b) := by
  refine ⟨by simp, by simp, by simp, by simp, by simp, by simp, fun h1 h2 h3 => ⟨by simpa using h1, ?_⟩⟩
  rw [State.skipIf_pc]; split
  · rw [BitVec.toNat_add, show BitVec.toNat (2:Word) = 2 from rfl]; omega
  · omega

/-- The effect of an instruction that writes registers, the index, the display, the timers or the draws only. -/
theorem plain_effect (i : Instr) {s t : State} (h1 : t.params = s.params) (h2 : t.tick = s.tick)
    (h3 : t.inputs = s.inputs) (h4 : t.mem = s.mem) (h5 : t.keypad = s.keypad) (h6 : t.fault = s.fault)
    (h7 : t.stack = s.stack) (h8 : s.pc.toNat ≤ 0x1000 → 2 ≤ s.pc.toNat → t.pc.toNat ≤ 0x10FE) : ExecEffect i s t :=
  ⟨h1, h2, h3, fun h => by rw [h4]; exact h, .inl h5, .inl h6, fun a b c => ⟨by rw [h7]; exact a, h8 b c⟩⟩

/-- The effect of every instruction. -/
theorem exec_effect (i : Instr) (s t : State) (h : exec i s = .next t) : ExecEffect i s t := by
  cases i with
  | ret =>
    rcases s.stack.pop_cases with ⟨_, k, h', h2, h3⟩ | ⟨_, h'⟩ <;> simp only [exec, execRet, raise, h'] at h <;> cases h
    · refine ⟨rfl, rfl, rfl, id, .inl rfl, .inl rfl, fun h1 h2 _ => ⟨?_, ?_⟩⟩
      · simpa [h3] using h1
      · have := h1 ⟨s.stack.sp.val - 1, by omega⟩
        simp at this ⊢; omega
    · exact raise_effect _ _ _ _ (fun h => ⟨h, rfl⟩)
  | call nnn =>
    rcases s.stack.push_cases s.pc with ⟨hl, k, h', h2, h3⟩ | ⟨_, h'⟩ <;> simp only [exec, execCall, raise, h'] at h <;> cases h
    · refine ⟨rfl, rfl, rfl, id, .inl rfl, .inl rfl, fun h1 h2 _ => ⟨?_, ?_⟩⟩
      · intro k; simp [h3, Vector.getElem_set]; split
        · exact h2
        · exact h1 k
      · have := nnn.isLt; simp [zextAddr]; omega
    · exact raise_effect _ _ _ _ (fun h => ⟨⟨_, h⟩, rfl⟩)
  | jp nnn =>
    cases h
    refine plain_effect _ rfl rfl rfl rfl rfl rfl rfl (fun _ _ => ?_)
    have := nnn.isLt; simp [zextAddr]; omega
  | jpV0 nnn =>
    cases h
    refine plain_effect _ rfl rfl rfl rfl rfl rfl rfl (fun _ _ => ?_)
    have := nnn.isLt; have := (s.readV 0).isLt; simp [zextAddr, zextByte]; omega
  | seImm x nn => cases h; exact skipIf_effect _ _ _
  | sneImm x nn => cases h; exact skipIf_effect _ _ _
  | seReg x nn => cases h; exact skipIf_effect _ _ _
  | sneReg x nn => cases h; exact skipIf_effect _ _ _
  | skp x =>
    simp only [exec, execSkp, raise] at h
    split at h <;> cases h
    · exact skipIf_effect _ _ _
    · rename_i hk
      refine raise_effect _ _ _ _ (fun h => ⟨.inl ⟨_, h⟩, ?_⟩)
      unfold keyArg at hk; split at hk
      · cases hk
      · have := (s.readV x).isLt; simp [zextByte]; omega
  | sknp x =>
    simp only [exec, execSknp, raise] at h
    split at h <;> cases h
    · exact skipIf_effect _ _ _
    · rename_i hk
      refine raise_effect _ _ _ _ (fun h => ⟨.inr ⟨_, h⟩, ?_⟩)
      unfold keyArg at hk; split at hk
      · cases hk
      · have := (s.readV x).isLt; simp [zextByte]; omega
  | ldVxK x =>
    simp only [exec, execLdVxK] at h
    split at h <;> cases h
    · refine ⟨rfl, rfl, rfl, id, .inr rfl, .inl rfl, fun h1 h2 _ => ⟨h1, ?_⟩⟩; simp; omega
    · refine ⟨rfl, rfl, rfl, id, .inl rfl, .inl rfl, fun h1 h2 _ => ⟨h1, ?_⟩⟩
      have := s.pc.isLt
      show (s.pc - 2#16).toNat ≤ _; rw [BitVec.toNat_sub, show (2#16).toNat = 2 from rfl]; omega
  | addI x =>
    simp only [exec, execAddI] at h; cases h
    split <;> exact plain_effect _ (by simp) (by simp) (by simp) (by simp) (by simp) (by simp) (by simp) (by simp; omega)
  | drw x y n =>
    rcases withRange_inv _ _ _ _ _ h with ⟨_, h⟩ | ⟨w,hw,h⟩ <;> subst h
    · exact plain_effect _ (by simp) (by simp) (by simp) (by simp) (by simp) (by simp) (by simp) (by simp; omega)
    · exact raise_effect _ _ _ _ (fun h => ⟨.inr (.inl ⟨_, _, _, h⟩), hw⟩)
  | ldB x =>
    rcases withRange_inv _ _ _ _ _ h with ⟨hr, h⟩ | ⟨w,hw,h⟩ <;> subst h
    · exact ⟨by simp, by simp, by simp, fun h => Memory.wf_writeBytes h _ _ (by simp [bcdDigits, State.indexAddr]; omega), by simp, by simp,
        fun h1 h2 _ => ⟨by simpa using h1, by simp; omega⟩⟩
    · exact raise_effect _ _ _ _ (fun h => ⟨.inr (.inr (.inl ⟨_, h⟩)), hw⟩)
  | ldMemVx x =>
    rcases withRange_inv _ _ _ _ _ h with ⟨hr, h⟩ | ⟨w,hw,h⟩ <;> subst h
    · exact ⟨by simp, by simp, by simp, fun h => Memory.wf_writeBytes h _ _ (by simp [State.regsUpTo, State.indexAddr]; omega), by simp, by simp,
        fun h1 h2 _ => ⟨by simpa using h1, by simp; omega⟩⟩
    · exact raise_effect _ _ _ _ (fun h => ⟨.inr (.inr (.inr (.inl ⟨_, h⟩))), hw⟩)
  | ldVxMem x =>
    rcases withRange_inv _ _ _ _ _ h with ⟨hr, h⟩ | ⟨w,hw,h⟩ <;> subst h
    · exact plain_effect _ (by simp) (by simp) (by simp) (by simp) (by simp) (by simp) (by simp) (by simp; omega)
    · exact raise_effect _ _ _ _ (fun h => ⟨.inr (.inr (.inr (.inr ⟨_, h⟩))), hw⟩)
  | _ =>
    cases h
    exact plain_effect _ (by simp) (by simp) (by simp) (by simp) (by simp) (by simp) (by simp) (by simp; omega)

/-! ## What a step is made of -/

/-- What a slot, the keypad phases, the timer decay, a reset and the model's own bookkeeping keep, every step keeps. -/
theorem step_keeps (Q : State → Prop)
   (h1 : ∀ s p, Q s → Q (s.setTick p)) (h2 : ∀ s l, Q s → Q (s.setInputs l))
   (h3 : ∀ s ev, s.fault = none → Q s → Q (s.keypadPhase ev)) (h4 : ∀ s, Q s → Q s.decayTimers)
   (h5 : ∀ s t, s.fault = none → Q s → stepInstr s = .next t → Q t)
   (h6 : ∀ s l d, Q s → s.params.image.length ≤ maxImage →
     Q (((State.init s.params).setInputs l).setDraws d)) (s t : State) (hs : Q s) (h : step s = .next t) : Q t := by
  have slot : ∀ n u t, Q u → State.slotInTick u n = .next t → Q t := by
    intro n u t hu h
    unfold State.slotInTick at h
    split at h
    · cases h; exact h1 _ _ hu
    · rename_i hh
      have hf : u.fault = none := by simpa [State.halted] using hh
      cases n with
      | zero => cases h; exact h1 _ _ (h4 _ hu)
      | succ n =>
        obtain ⟨v, hv⟩ := stepInstr_next u
        simp only [hv] at h; cases h
        have := h5 _ _ hf hu hv
        unfold State.closeSlot
        split
        · exact h1 _ _ this
        · split
          · exact h1 _ _ (h4 _ this)
          · exact h1 _ _ this
  have tick : ∀ ev u t, Q u → State.beginTick u ev = .next t → Q t := by
    intro ev u t hu h
    unfold State.beginTick at h
    split at h
    · cases h; exact hu
    · rename_i hh
      have hf : u.fault = none := by simpa [State.halted] using hh
      exact slot _ _ _ (h3 _ _ hf hu) h
  rcases step_cases s with ⟨n, _, e⟩ | ⟨_, _, e⟩ | ⟨_, ev, rest, hi, e⟩ | ⟨_, rest, hi, e⟩ | ⟨_, o, v, rest, hi, e⟩
  · rw [e] at h; exact slot _ _ _ hs h
  · rw [e] at h; exact tick _ _ _ hs h
  · rw [e] at h; exact tick _ _ _ (h2 _ _ hs) h
  · rw [e] at h
    rcases (s.setInputs rest).restart_cases with ⟨h7, h8⟩ | ⟨_, h8⟩
    · rw [h8] at h; cases h
      exact h6 s _ _ hs h7
    · rw [h8] at h; cases h
  · rw [e] at h; cases h; exact h2 _ _ hs

end Sys2Proof.Machine
end

