-- ==== Sys2Proof/Laws/Fields.lean ====
section
/-! SUPPORT. The fields of a composed word, form by form (R71), and which row of the opcode map it lies in. -/

namespace Sys2Proof

/-- Bits of a word cut out of a sum of two pieces: a cut inside the low piece. -/
theorem extract_low {n m : Nat} (a : BitVec n) (b : BitVec m) (lo len : Nat) (h : lo + len ≤ m) :
    (a ++ b).extractLsb' lo len = b.extractLsb' lo len := by
  ext i hi
  simp only [BitVec.getElem_extractLsb', BitVec.getLsbD_append]
  rw [if_pos (by omega)]

/-- A cut inside the high piece. -/
theorem extract_high {n m : Nat} (a : BitVec n) (b : BitVec m) (lo len : Nat) (h : m ≤ lo) :
    (a ++ b).extractLsb' lo len = a.extractLsb' (lo - m) len := by
  ext i hi
  simp only [BitVec.getElem_extractLsb', BitVec.getLsbD_append]
  rw [if_neg (by omega)]
  congr 1; omega

theorem extract_all {n : Nat} (a : BitVec n) : a.extractLsb' 0 n = a := by
  simp

@[simp] theorem regBits_toFin (x : Reg) : (regBits x).toFin = x := rfl

@[simp] theorem fieldC_encNNN (c : BitVec 4) (nnn : Addr12) : fieldC (encNNN c nnn) = c := by
  unfold fieldC encNNN; rw [extract_high c nnn 12 4 (by omega)]; exact extract_all c

@[simp] theorem fieldNNN_encNNN (c : BitVec 4) (nnn : Addr12) : fieldNNN (encNNN c nnn) = nnn := by
  unfold fieldNNN encNNN; rw [extract_low c nnn 0 12 (by omega)]; exact extract_all nnn

@[simp] theorem fieldC_encXNN (c : BitVec 4) (x : Reg) (nn : Byte) : fieldC (encXNN c x nn) = c := by
  unfold fieldC encXNN
  rw [extract_high (c ++ regBits x) nn 12 4 (by omega), extract_high c (regBits x) _ 4 (by omega)]
  exact extract_all c

@[simp] theorem fieldX_encXNN (c : BitVec 4) (x : Reg) (nn : Byte) : fieldX (encXNN c x nn) = x := by
  unfold fieldX encXNN
  rw [extract_high (c ++ regBits x) nn 8 4 (by omega), extract_low c (regBits x) _ 4 (by omega)]
  exact congrArg BitVec.toFin (extract_all (regBits x))

@[simp] theorem fieldNN_encXNN (c : BitVec 4) (x : Reg) (nn : Byte) : fieldNN (encXNN c x nn) = nn := by
  unfold fieldNN encXNN
  rw [extract_low (c ++ regBits x) nn 0 8 (by omega)]; exact extract_all nn

@[simp] theorem fieldC_encXYN (c : BitVec 4) (x y : Reg) (n : BitVec 4) : fieldC (encXYN c x y n) = c := by
  unfold fieldC encXYN
  rw [extract_high (c ++ regBits x ++ regBits y) n 12 4 (by omega),
    extract_high (c ++ regBits x) (regBits y) _ 4 (by omega), extract_high c (regBits x) _ 4 (by omega)]
  exact extract_all c

@[simp] theorem fieldX_encXYN (c : BitVec 4) (x y : Reg) (n : BitVec 4) : fieldX (encXYN c x y n) = x := by
  unfold fieldX encXYN
  rw [extract_high (c ++ regBits x ++ regBits y) n 8 4 (by omega),
    extract_high (c ++ regBits x) (regBits y) _ 4 (by omega), extract_low c (regBits x) _ 4 (by omega)]
  exact congrArg BitVec.toFin (extract_all (regBits x))

@[simp] theorem fieldY_encXYN (c : BitVec 4) (x y : Reg) (n : BitVec 4) : fieldY (encXYN c x y n) = y := by
  unfold fieldY encXYN
  rw [extract_high (c ++ regBits x ++ regBits y) n 4 4 (by omega),
    extract_low (c ++ regBits x) (regBits y) _ 4 (by omega)]
  exact congrArg BitVec.toFin (extract_all (regBits y))

@[simp] theorem fieldN_encXYN (c : BitVec 4) (x y : Reg) (n : BitVec 4) : fieldN (encXYN c x y n) = n := by
  unfold fieldN encXYN
  rw [extract_low (c ++ regBits x ++ regBits y) n 0 4 (by omega)]; exact extract_all n

/-- The two bytes of a word, put together again (R56). -/
@[simp] theorem wordOfBytes_bytes (w : Word) : wordOfBytes (hiByte w) (loByte w) = w := by
  unfold wordOfBytes hiByte loByte
  ext i hi
  simp only [BitVec.getElem_append, BitVec.getElem_extractLsb']
  split
  · simp [BitVec.getLsbD_eq_getElem hi]
  · rw [show 8 + (i - 8) = i by omega, BitVec.getLsbD_eq_getElem hi]

end Sys2Proof
end

