-- ==== Sys2Proof/Laws/PerInstr.lean ====
section
/-! SUPPORT. Statements about every instruction as syntax, one lemma per constructor. -/

namespace Sys2Proof.Laws.OpcodeRow

/-- The word an instruction encodes to lies in the instruction's own row of the opcode map, and has the row's fixed
bits (R75, R79). -/
def Statement (i : Instr) : Prop :=
  ∃ r : Sys2Proof.OpcodeRow, opcodeRows[i.rowIndex]? = some r ∧ r.accepts (encode i) = true

/-- Bit by bit: masking a 16-bit word with fixed bits. -/
theorem masked_eq {w m v : Word} (h : ∀ k : Fin 16, (w.getLsbD k && m.getLsbD k) = v.getLsbD k) : w &&& m = v := by
  apply BitVec.eq_of_getLsbD_eq
  intro k hk
  rw [BitVec.getLsbD_and]
  exact h ⟨k, hk⟩

theorem accepts_NNN (c : BitVec 4) (nnn : Addr12) :
    Sys2Proof.OpcodeRow.accepts ⟨0xF000, c ++ 0#12⟩ (encNNN c nnn) = true := by
  simp only [Sys2Proof.OpcodeRow.accepts, beq_iff_eq]
  apply masked_eq
  intro k
  simp only [encNNN, BitVec.getLsbD_append]
  fin_cases k <;> simp

theorem accepts_XNN (c : BitVec 4) (x : Reg) (nn : Byte) :
    Sys2Proof.OpcodeRow.accepts ⟨0xF000, c ++ 0#12⟩ (encXNN c x nn) = true := by
  simp only [Sys2Proof.OpcodeRow.accepts, beq_iff_eq]
  apply masked_eq
  intro k
  simp only [encXNN, BitVec.getLsbD_append]
  fin_cases k <;> simp

theorem accepts_XYN (c : BitVec 4) (x y : Reg) (n : BitVec 4) :
    Sys2Proof.OpcodeRow.accepts ⟨0xF000, c ++ 0#12⟩ (encXYN c x y n) = true := by
  simp only [Sys2Proof.OpcodeRow.accepts, beq_iff_eq]
  apply masked_eq
  intro k
  simp only [encXYN, BitVec.getLsbD_append]
  fin_cases k <;> simp

/-- The low nibble is fixed. -/
theorem accepts_XYn (c : BitVec 4) (x y : Reg) (n : BitVec 4) :
    Sys2Proof.OpcodeRow.accepts ⟨0xF00F, c ++ 0#8 ++ n⟩ (encXYN c x y n) = true := by
  simp only [Sys2Proof.OpcodeRow.accepts, beq_iff_eq]
  apply masked_eq
  intro k
  simp only [encXYN, BitVec.getLsbD_append]
  fin_cases k <;> simp

/-- The low byte is fixed. -/
theorem accepts_Xnn (c : BitVec 4) (x : Reg) (nn : Byte) :
    Sys2Proof.OpcodeRow.accepts ⟨0xF0FF, c ++ 0#4 ++ nn⟩ (encXNN c x nn) = true := by
  simp only [Sys2Proof.OpcodeRow.accepts, beq_iff_eq]
  apply masked_eq
  intro k
  simp only [encXNN, BitVec.getLsbD_append]
  fin_cases k <;> simp

theorem cls : Statement .cls := ⟨_, rfl, by decide⟩
theorem ret : Statement .ret := ⟨_, rfl, by decide⟩
theorem jp (nnn : Addr12) : Statement (.jp nnn) := ⟨_, rfl, accepts_NNN 0x1#4 nnn⟩
theorem call (nnn : Addr12) : Statement (.call nnn) := ⟨_, rfl, accepts_NNN 0x2#4 nnn⟩
theorem seImm (x : Reg) (nn : Byte) : Statement (.seImm x nn) := ⟨_, rfl, accepts_XNN 0x3#4 x nn⟩
theorem sneImm (x : Reg) (nn : Byte) : Statement (.sneImm x nn) := ⟨_, rfl, accepts_XNN 0x4#4 x nn⟩
theorem seReg (x : Reg) (y : Reg) : Statement (.seReg x y) := ⟨_, rfl, accepts_XYn 0x5#4 x y 0x0#4⟩
theorem ldImm (x : Reg) (nn : Byte) : Statement (.ldImm x nn) := ⟨_, rfl, accepts_XNN 0x6#4 x nn⟩
theorem addImm (x : Reg) (nn : Byte) : Statement (.addImm x nn) := ⟨_, rfl, accepts_XNN 0x7#4 x nn⟩
theorem ldReg (x : Reg) (y : Reg) : Statement (.ldReg x y) := ⟨_, rfl, accepts_XYn 0x8#4 x y 0x0#4⟩
theorem orReg (x : Reg) (y : Reg) : Statement (.orReg x y) := ⟨_, rfl, accepts_XYn 0x8#4 x y 0x1#4⟩
theorem andReg (x : Reg) (y : Reg) : Statement (.andReg x y) := ⟨_, rfl, accepts_XYn 0x8#4 x y 0x2#4⟩
theorem xorReg (x : Reg) (y : Reg) : Statement (.xorReg x y) := ⟨_, rfl, accepts_XYn 0x8#4 x y 0x3#4⟩
theorem addReg (x : Reg) (y : Reg) : Statement (.addReg x y) := ⟨_, rfl, accepts_XYn 0x8#4 x y 0x4#4⟩
theorem sub (x : Reg) (y : Reg) : Statement (.sub x y) := ⟨_, rfl, accepts_XYn 0x8#4 x y 0x5#4⟩
theorem shr (x : Reg) (y : Reg) : Statement (.shr x y) := ⟨_, rfl, accepts_XYn 0x8#4 x y 0x6#4⟩
theorem subn (x : Reg) (y : Reg) : Statement (.subn x y) := ⟨_, rfl, accepts_XYn 0x8#4 x y 0x7#4⟩
theorem shl (x : Reg) (y : Reg) : Statement (.shl x y) := ⟨_, rfl, accepts_XYn 0x8#4 x y 0xE#4⟩
theorem sneReg (x : Reg) (y : Reg) : Statement (.sneReg x y) := ⟨_, rfl, accepts_XYn 0x9#4 x y 0x0#4⟩
theorem ldI (nnn : Addr12) : Statement (.ldI nnn) := ⟨_, rfl, accepts_NNN 0xA#4 nnn⟩
theorem jpV0 (nnn : Addr12) : Statement (.jpV0 nnn) := ⟨_, rfl, accepts_NNN 0xB#4 nnn⟩
theorem rnd (x : Reg) (nn : Byte) : Statement (.rnd x nn) := ⟨_, rfl, accepts_XNN 0xC#4 x nn⟩
theorem drw (x : Reg) (y : Reg) (n : Nat) : Statement (.drw x y n) := ⟨_, rfl, accepts_XYN 0xD#4 x y _⟩
theorem skp (x : Reg) : Statement (.skp x) := ⟨_, rfl, accepts_Xnn 0xE#4 x 0x9E#8⟩
theorem sknp (x : Reg) : Statement (.sknp x) := ⟨_, rfl, accepts_Xnn 0xE#4 x 0xA1#8⟩
theorem ldVxDt (x : Reg) : Statement (.ldVxDt x) := ⟨_, rfl, accepts_Xnn 0xF#4 x 0x07#8⟩
theorem ldVxK (x : Reg) : Statement (.ldVxK x) := ⟨_, rfl, accepts_Xnn 0xF#4 x 0x0A#8⟩
theorem ldDtVx (x : Reg) : Statement (.ldDtVx x) := ⟨_, rfl, accepts_Xnn 0xF#4 x 0x15#8⟩
theorem ldStVx (x : Reg) : Statement (.ldStVx x) := ⟨_, rfl, accepts_Xnn 0xF#4 x 0x18#8⟩
theorem addI (x : Reg) : Statement (.addI x) := ⟨_, rfl, accepts_Xnn 0xF#4 x 0x1E#8⟩
theorem ldF (x : Reg) : Statement (.ldF x) := ⟨_, rfl, accepts_Xnn 0xF#4 x 0x29#8⟩
theorem ldB (x : Reg) : Statement (.ldB x) := ⟨_, rfl, accepts_Xnn 0xF#4 x 0x33#8⟩
theorem ldMemVx (x : Reg) : Statement (.ldMemVx x) := ⟨_, rfl, accepts_Xnn 0xF#4 x 0x55#8⟩
theorem ldVxMem (x : Reg) : Statement (.ldVxMem x) := ⟨_, rfl, accepts_Xnn 0xF#4 x 0x65#8⟩

end Sys2Proof.Laws.OpcodeRow
end

