-- ==== Sys2Proof/Tests/Slice0.lean ====
section
/-! SUPPORT. The model's own tests: WellFormed, decoding of written-out words, one slot or one step per test with results
taken from spec 95_test_vectors.md (the vector's id stands in the name or beside it), and for each statement with
hypotheses a witness that meets them. -/

open Sys2Proof Sys2Proof.Machine

namespace Sys2Proof.Tests

/-! ## WellFormed -/

/-- The one check WellFormed makes: a sprite height the field cannot hold (R72). -/
theorem test_wellFormed_refuses_height_16 : (Instr.drw 0 0 16).wellFormed = false := by decide
theorem test_wellFormed_takes_height_15 : (Instr.drw 0 0 15).wellFormed = true := by decide

/-! ## Decoding: words written out bit by bit from the patterns of R75 -/

theorem test_decode_control :
    decode 0b0000000011101110#16 = .ok .ret ∧
    decode 0b0001100000000001#16 = .ok (.jp 0x801) ∧
    decode 0b0010111111110000#16 = .ok (.call 0xFF0) ∧
    decode 0b0011101001010110#16 = .ok (.seImm 0xA 0x56) ∧
    decode 0b0100101001010110#16 = .ok (.sneImm 0xA 0x56) ∧
    decode 0b0101101001010000#16 = .ok (.seReg 0xA 0x5) ∧
    decode 0b1001101001010000#16 = .ok (.sneReg 0xA 0x5) ∧
    decode 0b1011100000000001#16 = .ok (.jpV0 0x801) := by decide

theorem test_decode_alu :
    decode 0b0110101001010110#16 = .ok (.ldImm 0xA 0x56) ∧
    decode 0b0111101001010110#16 = .ok (.addImm 0xA 0x56) ∧
    decode 0b1000101001010000#16 = .ok (.ldReg 0xA 0x5) ∧
    decode 0b1000101001010001#16 = .ok (.orReg 0xA 0x5) ∧
    decode 0b1000101001010010#16 = .ok (.andReg 0xA 0x5) ∧
    decode 0b1000101001010011#16 = .ok (.xorReg 0xA 0x5) ∧
    decode 0b1000101001010100#16 = .ok (.addReg 0xA 0x5) ∧
    decode 0b1000101001010101#16 = .ok (.sub 0xA 0x5) ∧
    decode 0b1000101001010110#16 = .ok (.shr 0xA 0x5) ∧
    decode 0b1000101001010111#16 = .ok (.subn 0xA 0x5) ∧
    decode 0b1000101001011110#16 = .ok (.shl 0xA 0x5) ∧
    decode 0b1100101001010110#16 = .ok (.rnd 0xA 0x56) := by decide

theorem test_decode_index_display_keypad_timers :
    decode 0b1010100000000001#16 = .ok (.ldI 0x801) ∧
    decode 0b1111101000011110#16 = .ok (.addI 0xA) ∧
    decode 0b1111101000101001#16 = .ok (.ldF 0xA) ∧
    decode 0b1111101000110011#16 = .ok (.ldB 0xA) ∧
    decode 0b1111101001010101#16 = .ok (.ldMemVx 0xA) ∧
    decode 0b1111101001100101#16 = .ok (.ldVxMem 0xA) ∧
    decode 0b0000000011100000#16 = .ok .cls ∧
    decode 0b1101101001010011#16 = .ok (.drw 0xA 0x5 3) ∧
    decode 0b1110101010011110#16 = .ok (.skp 0xA) ∧
    decode 0b1110101010100001#16 = .ok (.sknp 0xA) ∧
    decode 0b1111101000000111#16 = .ok (.ldVxDt 0xA) ∧
    decode 0b1111101000001010#16 = .ok (.ldVxK 0xA) ∧
    decode 0b1111101000010101#16 = .ok (.ldDtVx 0xA) ∧
    decode 0b1111101000011000#16 = .ok (.ldStVx 0xA) := by decide

/-- V6 to V12: words of no row. -/
theorem test_decode_rejects :
    [0x0000, 0x0123, 0x5121, 0x9121, 0x8128, 0x812D, 0x812F, 0xE19F, 0xF0FF, 0xF00B].map
        (fun w => decodeTableWord 16 w) = List.replicate 10 none ∧
    decode 0x8128 = .error (.unknownOpcode 0x8128) ∧ decodeBytes [0x60] = .error .truncated := by decide

/-- R56: the first byte in memory is the high byte of the word. -/
theorem test_decode_bytes : decodeBytes [0x60, 0x05, 0x12] = .ok (.ldImm 0 5, [0x12]) := by decide

/-! ## One slot -/

/-- The reset state with the given registers. -/
def withRegs (regs : List (Reg × Byte)) : State := regs.foldl (fun s p => s.writeV p.1 p.2) State.reset

/-- The same state under another configuration. -/
def withConfig (s : State) (f : Config → Config) : State := { s with params := { s.params with config := f s.config } }

/-- The same state with bytes in memory. -/
def withBytes (s : State) (a : Nat) (bs : List Byte) : State := s.setMem (s.mem.writeBytes a bs)

/-- The state a result holds, the given one where it holds none. -/
def stateOf (d : State) : Host.Outcome State Fault Refusal → State
  | .next t => t
  | _ => d

/-- One slot of the given word at `pc`. -/
def slot (w : Nat) (s : State) : State := stateOf s (stepInstr (s.withFetchWord 16 w))

/-- A fault record of a slot at 0x200. -/
def faultAt200 (c : Fault) (w addr : Word) : Option FaultRecord :=
  some { cause := c, pc := 0x200, opcode := w, addr := addr }

theorem test_fetch_big_endian_V1 :
    (let t := stateOf State.reset (stepInstr (withBytes State.reset 0x200 [0x60, 0x05])); (t.readV 0, t.pc)) = (5, 0x202) := by
  decide
theorem test_fetch_odd_V2 : (let t := slot 0x6107 (State.reset.setPc 0x201); (t.readV 1, t.pc)) = (7, 0x203) := by decide
theorem test_fetch_last_V3 : (let t := slot 0x6001 (State.reset.setPc 0xFFE); (t.readV 0, t.pc, t.fault)) = (1, 0x1000, none) := by
  decide
theorem test_fetch_fault_V4 :
    (let t := stateOf State.reset (stepInstr (State.reset.setPc 0xFFF)); (t.pc, t.fault)) =
      (0xFFF, some { cause := .addressOutOfRange, pc := 0xFFF, opcode := 0, addr := 0x1000 }) := by decide
theorem test_fetch_fault_V5 :
    (stateOf State.reset (stepInstr (State.reset.setPc 0x1000))).fault =
      some { cause := .addressOutOfRange, pc := 0x1000, opcode := 0, addr := 0x1000 } := by decide
theorem test_illegal_V6 :
    (let t := slot 0x0000 State.reset; (t.pc, t.fault)) = (0x200, faultAt200 .unknownOpcode 0 0) := by decide

theorem test_ret_underflow_V20 :
    (let t := slot 0x00EE State.reset; (t.pc, t.stack.sp, t.fault)) = (0x200, 0, faultAt200 .stackUnderflow 0x00EE 0) := by
  decide
theorem test_ret_L1_3 : (let t := slot 0x00EE (slot 0x2300 State.reset); (t.pc, t.stack.sp)) = (0x202, 0) := by decide
theorem test_call_overflow_V21 :
    (let t := slot 0x2300 (State.reset.setStack { State.reset.stack with sp := 16 }); (t.pc, t.stack.sp, t.fault)) =
      (0x200, 16, faultAt200 .stackOverflow 0x2300 0) := by decide
theorem test_call_V22 :
    (let t := slot 0x2300 (State.reset.setPc 0xFFE); (t.stack.entries[0], t.stack.sp, t.pc)) = (0x1000, 1, 0x300) := by decide
theorem test_jp_V25 : (slot 0x1FFF State.reset).pc = 0xFFF := by decide
theorem test_jpV0_V26 : (slot 0xB300 (withRegs [(0, 0x10)])).pc = 0x310 := by decide
theorem test_jpV0_V28 : (slot 0xBFFF (withRegs [(0, 0xFF)])).pc = 0x10FE := by decide
theorem test_seImm_V29 : ((slot 0x3307 (withRegs [(3, 7)])).pc, (slot 0x3308 (withRegs [(3, 7)])).pc) = (0x204, 0x202) := by decide
theorem test_sneImm_V30 : ((slot 0x4307 (withRegs [(3, 7)])).pc, (slot 0x4308 (withRegs [(3, 7)])).pc) = (0x202, 0x204) := by decide
theorem test_seReg_V31 : (slot 0x5120 (withRegs [(1, 0x40), (2, 0x40)])).pc = 0x204 := by decide
theorem test_sneReg_V32_V33 :
    ((slot 0x9110 (withRegs [(1, 0x40)])).pc, (slot 0x9120 (withRegs [(1, 0x40), (2, 0x41)])).pc) = (0x202, 0x204) := by decide

theorem test_ldImm_V40 : (slot 0x6A7B State.reset).readV 0xA = 0x7B := by decide
theorem test_addImm_V42 : (let t := slot 0x7002 (withRegs [(0, 0xFF), (15, 0x77)]); (t.readV 0, t.readV 15)) = (1, 0x77) := by decide
theorem test_ldReg_V44 :
    (let t := slot 0x8120 (withConfig (withRegs [(2, 0x33), (15, 0x55)]) ({ · with vfReset := true })); (t.readV 1, t.readV 15)) =
      (0x33, 0x55) := by decide
theorem test_orReg_V45 :
    (let t := slot 0x8121 (withRegs [(1, 0x0F), (2, 0xF0), (15, 0x55)]); (t.readV 1, t.readV 15)) = (0xFF, 0x55) := by decide
theorem test_orReg_vfReset_V48 :
    ((slot 0x8F11 (withRegs [(15, 0x0F), (1, 0xF0)])).readV 15,
      (slot 0x8F11 (withConfig (withRegs [(15, 0x0F), (1, 0xF0)]) ({ · with vfReset := true }))).readV 15) = (0xFF, 0) := by decide
theorem test_andReg_V46 : (slot 0x8122 (withRegs [(1, 0x3C), (2, 0x0F)])).readV 1 = 0x0C := by decide
theorem test_xorReg_V46 : (slot 0x8123 (withRegs [(1, 0x3C), (2, 0x0F)])).readV 1 = 0x33 := by decide
theorem test_addReg_L1_1 :
    (let t := slot 0x8124 (withRegs [(1, 0xFA), (2, 0x0A)]); (t.readV 1, t.readV 15, t.pc)) = (4, 1, 0x202) := by decide
theorem test_addReg_V51 : (slot 0x8F14 (withRegs [(15, 0xFF), (1, 1)])).readV 15 = 1 := by decide
theorem test_sub_L1_2 :
    (let t := slot 0x8125 (withRegs [(1, 5), (2, 10)]); (t.readV 1, t.readV 15)) = (0xFB, 0) := by decide
theorem test_sub_V53 : (let t := slot 0x8125 (withRegs [(1, 7), (2, 7)]); (t.readV 1, t.readV 15)) = (0, 1) := by decide
theorem test_subn_V56 : (let t := slot 0x8127 (withRegs [(1, 10), (2, 5)]); (t.readV 1, t.readV 15)) = (0xFB, 0) := by decide
theorem test_shr_V58 :
    (let t := slot 0x8126 (withRegs [(1, 0xFF), (2, 5)]); (t.readV 1, t.readV 15, t.readV 2)) = (2, 1, 5) := by decide
theorem test_shr_V59 :
    (let t := slot 0x8126 (withConfig (withRegs [(1, 5), (2, 0x80)]) ({ · with modernShift := true })); (t.readV 1, t.readV 15)) =
      (2, 1) := by decide
theorem test_shl_V61 : (let t := slot 0x812E (withRegs [(2, 0x81)]); (t.readV 1, t.readV 15)) = (2, 1) := by decide
theorem test_shl_V63 :
    (let t := slot 0x812E (withConfig (withRegs [(1, 0x81)]) ({ · with modernShift := true })); (t.readV 1, t.readV 15)) =
      (2, 1) := by decide
/-- V65, for whatever byte is drawn: a mask of 0 gives 0 and the draw is consumed. -/
theorem test_rnd_V65 : ∃ t, stepInstr (State.reset.withFetchWord 16 0xC300) = .next t ∧ t.readV 3 = 0 ∧ t.draws.random = 1 :=
  ⟨_, rfl, BitVec.and_zero, rfl⟩

theorem test_ldI_V70 : (slot 0xA123 (State.reset.setI 0x1234)).i = 0x123 := by decide
theorem test_addI_V71 :
    (let t := slot 0xF11E ((withRegs [(1, 1), (15, 0x44)]).setI 0xFFF); (t.i, t.readV 15)) = (0x1000, 0x44) := by decide
theorem test_addI_amiga_V73 :
    (let t := slot 0xF11E ((withConfig (withRegs [(1, 2)]) ({ · with amigaBehaviour := true })).setI 0xFFFF); (t.i, t.readV 15)) =
      (1, 1) := by decide
theorem test_ldF_V75 : ((slot 0xF229 (withRegs [(2, 5)])).i, (slot 0xF229 (withRegs [(2, 0xFF)])).i) = (0x19, 0x4FB) := by decide
theorem test_ldB_V76 :
    (let t := slot 0xF533 ((withRegs [(5, 123)]).setI 0x300); ([0x300, 0x301, 0x302].map t.mem.read, t.i)) =
      ([1, 2, 3], 0x300) := by decide
theorem test_ldB_fault_V78 :
    (let t := slot 0xF533 ((withRegs [(5, 123)]).setI 0xFFE); ([0xFFE, 0xFFF].map t.mem.read, t.pc, t.fault)) =
      ([0, 0], 0x200, faultAt200 .addressOutOfRange 0xF533 0x1000) := by decide
theorem test_ldMemVx_V80 :
    (let t := slot 0xF255 ((withRegs [(0, 1), (1, 2), (2, 3)]).setI 0x300); ([0x300, 0x301, 0x302, 0x303].map t.mem.read, t.i)) =
      ([1, 2, 3, 0], 0x303) := by decide
theorem test_ldMemVx_fault_V83 :
    (let t := slot 0xF255 ((withRegs [(0, 1)]).setI 0xFFE); (t.mem.read 0xFFE, t.i, t.fault)) =
      (0, 0xFFE, faultAt200 .addressOutOfRange 0xF255 0x1000) := by decide
theorem test_ldVxMem_V84 :
    (let t := slot 0xF265 ((withBytes State.reset 0x300 [1, 2, 3, 4]).setI 0x300); (t.readV 0, t.readV 1, t.readV 2, t.readV 3, t.i)) =
      (1, 2, 3, 0, 0x303) := by decide
theorem test_ldVxMem_modern_V84 :
    (let t := slot 0xF265 ((withConfig (withBytes State.reset 0x300 [1, 2, 3]) ({ · with modernStrLd := true })).setI 0x300);
      (t.readV 2, t.i)) = (3, 0x300) := by decide

theorem test_cls_V90 :
    (let t := slot 0x00E0 ((withRegs [(15, 0x55)]).setDisp (Vector.replicate 32 (Vector.replicate 64 true)));
      (t.disp.cell 0 0, t.disp.cell 31 63, t.readV 15)) = (false, false, 0x55) := by decide
/-- L1.5, first draw, some of its cells; the arguments of `cell` are row, column. -/
theorem test_drw_L1_5 :
    (let t := slot 0xD015 State.reset;
      ([t.disp.cell 0 0, t.disp.cell 0 3, t.disp.cell 0 4, t.disp.cell 1 0, t.disp.cell 1 1, t.disp.cell 4 3, t.disp.cell 5 0],
        t.readV 15)) = ([true, true, false, true, false, true, false], 0) := by decide
/-- V94: clipped at the right edge, not wrapped. -/
theorem test_drw_V94 :
    (let t := slot 0xD121 (withRegs [(1, 62), (2, 0), (15, 9)]);
      ([t.disp.cell 0 61, t.disp.cell 0 62, t.disp.cell 0 63, t.disp.cell 0 0, t.disp.cell 1 0], t.readV 15)) =
      ([false, true, true, false, false], 0) := by decide

/-- A keypad that took the given events `age` ticks ago. -/
def keypadAfter (events : List KeyEvent) (age : Nat) : Keypad :=
  (List.replicate age ([] : List KeyEvent)).foldl Keypad.update (State.reset.keypad.update events)

def press (k : Key) : KeyEvent := { key := k, kind := .pressed }

def release (k : Key) : KeyEvent := { key := k, kind := .released }

theorem test_skp_V111 :
    ((slot 0xE29E ((withRegs [(2, 5)]).setKeypad (keypadAfter [press 5] 3))).pc,
      (slot 0xE29E ((withRegs [(2, 5)]).setKeypad (keypadAfter [press 5] 4))).pc) = (0x204, 0x202) := by decide
theorem test_skp_fault_V115 :
    (let t := slot 0xE29E (withRegs [(2, 0x10)]); (t.pc, t.fault)) = (0x200, faultAt200 .keyOutOfRange 0xE29E 0x10) := by decide
theorem test_sknp_V112 :
    ((slot 0xE2A1 ((withRegs [(2, 5)]).setKeypad (keypadAfter [press 5] 3))).pc,
      (slot 0xE2A1 ((withRegs [(2, 5)]).setKeypad (keypadAfter [press 5] 4))).pc) = (0x202, 0x204) := by decide
theorem test_sknp_released_V114 :
    (slot 0xE2A1 ((withConfig (withRegs [(2, 5)]) ({ · with keySkipNot := .released })).setKeypad
      (keypadAfter [release 5] 2))).pc = 0x204 := by decide
theorem test_ldVxK_V118 :
    (let t := slot 0xF30A (State.reset.setKeypad (keypadAfter [press 3, press 9] 0)); (t.readV 3, t.pc, t.keypad.pending.valid)) =
      (9, 0x202, false) := by decide
theorem test_ldVxK_blocks_V117 :
    (let t := slot 0xF30A (State.reset.setKeypad (keypadAfter [press 7] 1)); (t.readV 3, t.pc, t.keypad.pending.valid)) =
      (0, 0x200, true) := by decide

theorem test_ldVxDt_V134 : (slot 0xF307 (State.reset.setDt 0x2A)).readV 3 = 0x2A := by decide
theorem test_ldDtVx : (slot 0xF315 (withRegs [(3, 5)])).dt = 5 := by decide
theorem test_ldStVx : (let t := slot 0xF318 (withRegs [(3, 3)]); (t.st, t.soundActive)) = (3, true) := by decide

/-! ## Ticks, construction, the host -/

/-- One step of the machine. -/
def stepOf (s : State) : State := stateOf s (step s)

theorem test_halted_tick_V13 :
    (let s := ((slot 0 State.reset).setDt 5).setInputs [.tick [press 1]]; let t := stepOf s;
      (t.dt, t.keypad.pressAge[1], t.fault, t.inputs)) = (5, 255, faultAt200 .unknownOpcode 0 0, []) := by decide
theorem test_tick_of_no_slots_V15 :
    (let t := stepOf (withConfig (State.reset.setDt 5) ({ · with ipt := 0 })); (t.dt, t.pc, t.tick)) = (4, 0x200, .boundary) := by
  decide
theorem test_reset_of_halted_V16 :
    (let t := stepOf (((slot 0 (withRegs [(3, 7)])).setInputs [.reset])); (t.fault, t.readV 3, t.pc)) = (none, 0, 0x200) := by decide
theorem test_timer_step_V133 : (stepOf ((withRegs [(3, 5)]).withFetchWord 16 0xF315)).dt = 4 := by decide
theorem test_mod60_V131 :
    (let s := withConfig State.reset ({ · with ipt := 0, timerDecay := .mod60 });
      ((stepOf (s.setDt 0)).dt, (stepOf (s.setDt 1)).dt, (stepOf (s.setDt 59)).dt)) = (59, 0, 58) := by decide
theorem test_faulting_tick_V136 :
    (let t := stepOf (State.reset.setDt 9); (t.dt, t.fault)) = (9, faultAt200 .unknownOpcode 0 0) := by decide
theorem test_key_wait_completes_L1_7 :
    (let t := stepOf ((State.reset.setInputs [.tick [press 0xA]]).withFetchWord 16 0xF30A); (t.pc, t.readV 3)) = (0x202, 0x0A) := by
  decide
theorem test_construct_image :
    (let t := stateOf State.reset (construct { defaultParams with image := [0x12, 0x34] });
      ([0x000, 0x04F, 0x050, 0x1FF, 0x200, 0x201, 0x202].map t.mem.read, t.pc)) = ([0xF0, 0x80, 0, 0, 0x12, 0x34, 0], 0x200) := by
  decide
/-- The construction of the parameters that `State.reset` names is `State.reset`. -/
theorem test_reset_is_init : State.init defaultParams = State.reset := by decide
theorem test_host_read_fault :
    ((slot 0x0000 State.reset).hostRead 0x4, (slot 0xF533 (State.reset.setI 0xFFE)).hostRead 0x8) =
      (some 0x02000001, some 0x1000F533) := by decide

/-! ## Witnesses: for each statement with hypotheses, concrete states and operands that meet them, clause by clause -/

/-- A running state of a 16-register program: memory with code and data, a part-full stack, registers set. -/
def busy : State :=
  (withBytes (withRegs [(0, 3), (1, 0xFE), (14, 0x10), (15, 0x55)]) 0x200 [0x82, 0x14, 0xF3, 0x0A]).setStack
    { State.reset.stack with sp := 15 }

theorem wit_EncodeThenDecode : (Instr.drw 15 15 15).wellFormed = true ∧ (Instr.ldMemVx 15).wellFormed = true := by decide
theorem wit_DecodeThenEncode : decode 0xDFFF = .ok (.drw 15 15 15) ∧ decode 0x00E0 = .ok .cls := by decide
theorem wit_RejectsExactlyTheUnlistedWords :
    (∀ r ∈ opcodeRows, r.accepts 0x8128 = false) ∧ (∃ r ∈ opcodeRows, r.accepts 0x8127 = true) := by decide
theorem wit_OpcodeRowsAreDisjoint :
    ∃ r ∈ opcodeRows, ∃ r' ∈ opcodeRows, r.accepts 0xF065 = true ∧ r'.accepts 0xF065 = true := by decide

theorem wit_StepRunsDecodedInstruction_batch :
    let s := busy.setTick (.batch 1)
    s.fault = none ∧ s.pc.toNat ≤ 0xFFE ∧
      decode (wordOfBytes (s.mem.read s.pc.toNat) (s.mem.read (s.pc.toNat + 1))) = .ok (.addReg 2 1) ∧
      s.tick = .batch (0 + 1) := by decide
/-- The highest address a word is fetched from, a boundary with the host's tick pending, and one with nothing pending. -/
theorem wit_StepRunsDecodedInstruction_boundary :
    let s := (State.reset.setPc 0xFFE).withFetchWord 16 0xF30A
    let s' := s.setInputs [.tick [press 5], .reset]
    s.fault = none ∧ s.pc.toNat ≤ 0xFFE ∧
      decode (wordOfBytes (s.mem.read s.pc.toNat) (s.mem.read (s.pc.toNat + 1))) = .ok (.ldVxK 3) ∧
      s.tick = .boundary ∧ s.config.ipt.toNat = 0 + 1 ∧ s.inputs = [] ∧
      s'.mem = s.mem ∧ s'.tick = .boundary ∧ s'.inputs = .tick [press 5] :: [.reset] := by decide
theorem wit_FetchRangeIsChecked :
    State.reset.fault = none ∧ 0xFFF ≤ (State.reset.setPc 0xFFF).pc.toNat ∧ 0xFFF ≤ (State.reset.setPc 0x1000).pc.toNat ∧
      (State.reset.setPc 0xFFE).pc.toNat ≤ 0xFFE := by decide
theorem wit_IllegalWordsFault :
    State.reset.fault = none ∧ State.reset.fetch = .ok 0x0000 ∧ ∀ r ∈ opcodeRows, r.accepts 0x0000 = false :=
  ⟨rfl, rfl, by decide⟩
theorem wit_FaultsArePrecise :
    busy.fault = none ∧
    (∃ t, stepInstr ((busy.setI 0xFFE).withFetchWord 16 0xF533) = .next t ∧
      t.fault = some { cause := .addressOutOfRange, pc := 0x200, opcode := 0xF533, addr := 0x1000 }) ∧
    (∃ t, stepInstr State.reset = .next t ∧
      t.fault = some { cause := .unknownOpcode, pc := 0x200, opcode := 0, addr := 0 }) :=
  ⟨rfl, ⟨_, rfl, by decide⟩, ⟨_, rfl, by decide⟩⟩

/-- A halted state. -/
def stopped : State := slot 0x0000 busy

theorem wit_HaltedCoreIsFrozen :
    (stopped.setInputs [.reset]).inputs = .reset :: [] ∧ stopped.params.image.length ≤ 3584 ∧
    stopped.fault = faultAt200 .unknownOpcode 0 0 ∧ stopped.tick = .boundary ∧ stopped.inputs = [] ∧
      (stopped.setInputs [.tick [press 1]]).inputs = [.tick [press 1]] ∧ (stopped.setTick (.batch 3)).tick = .batch 3 := by decide
theorem wit_EveryStepHasANextState : busy.params.image.length ≤ maxImage ∧ (List.replicate 3584 (0 : Byte)).length ≤ maxImage :=
  ⟨by decide, Nat.le_of_eq List.length_replicate⟩

theorem wit_CallPushesReturnAddress :
    busy.stack.sp.val < 16 ∧ State.reset.stack.sp.val < 16 ∧ (busy.setStack { busy.stack with sp := 16 }).stack.sp = 16 := by decide
theorem wit_ReturnPopsIntoPc :
    busy.stack.sp.val = (14 : Fin 16).val + 1 ∧ (busy.setStack { busy.stack with sp := 16 }).stack.sp.val = (15 : Fin 16).val + 1 ∧
      State.reset.stack.sp = 0 := by decide
theorem wit_ReturnUndoesCall :
    busy.stack.sp.val < 16 ∧ ∃ t u : State, exec (.call 0x300) busy = .next t ∧ u.stack = t.stack ∧ u.pc = 0x123 ∧ (3 : Fin 16).val < 15 :=
  ⟨by decide, _, State.setPc (stateOf busy (exec (.call 0x300) busy)) 0x123, rfl, rfl, rfl, by decide⟩
theorem wit_SkipsCompareAndSkip : (1 : BitVec 4) ≠ 0 ∧ (15 : BitVec 4) ≠ 0 := by decide
/-- Both sources of a shift, with bits at both ends. -/
theorem wit_ShiftsShiftTheirSource :
    let s := withRegs [(1, 0x81), (2, 0x7E)]
    let m := withConfig s ({ · with modernShift := true })
    0x7E = (if s.config.modernShift then s.readV 1 else s.readV 2).toNat ∧
      0x81 = (if m.config.modernShift then m.readV 1 else m.readV 2).toNat := by decide
/-- The clauses of LogicPost and FlagPost: VF as the destination and not, the quirk on and off. -/
theorem wit_LogicOpsAndVfReset :
    (withConfig busy ({ · with vfReset := true })).config.vfReset = true ∧ busy.config.vfReset = false ∧ (1 : Reg) ≠ 15 := by decide
theorem wit_AddToIndex : (withConfig busy ({ · with amigaBehaviour := true })).config.amigaBehaviour = true := by decide

theorem wit_BcdStoresDigits :
    busy.mem.wf = true ∧ (busy.setI 0xFFD).i.toNat + 3 ≤ 4096 ∧ 4096 < (busy.setI 0xFFE).i.toNat + 3 ∧
      4096 < (busy.setI 0xFFFF).i.toNat + 3 := by decide
theorem wit_StoreRegisters :
    busy.mem.wf = true ∧ (busy.setI 0xFF0).i.toNat + (15 : Reg).val + 1 ≤ 4096 ∧ (15 : Reg) ≤ 15 ∧
      (busy.setI 0xFFF).i.toNat + (0 : Reg).val + 1 ≤ 4096 ∧ 4096 < (busy.setI 0xFF1).i.toNat + (15 : Reg).val + 1 ∧
      4096 < (busy.setI 0x1000).i.toNat + (0 : Reg).val + 1 := by decide
theorem wit_LoadRegisters :
    (busy.setI 0xFF0).i.toNat + (15 : Reg).val + 1 ≤ 4096 ∧ (busy.setI 0xFFE).i.toNat + (1 : Reg).val + 1 ≤ 4096 ∧
      (1 : Reg) ≤ 1 ∧ (1 : Reg) < 2 ∧ 4096 < (busy.setI 0xFFF).i.toNat + (1 : Reg).val + 1 := by decide
theorem wit_StoreThenLoadRestores :
    (busy.setI 0x300).mem.wf = true ∧ (busy.setI 0x300).i.toNat + (1 : Reg).val + 1 ≤ 4096 ∧
    ∃ t u : State, exec (.ldMemVx 1) (busy.setI 0x300) = .next t ∧ u.mem = t.mem ∧ u.i = (busy.setI 0x300).i ∧ u.readV 0 = 0x99 :=
  ⟨by decide, by decide, _,
    ((stateOf busy (exec (.ldMemVx 1) (busy.setI 0x300))).setI 0x300).writeV 0 0x99, rfl, rfl, rfl, by decide⟩
/-- A range that runs over the end, and one that starts beyond it. -/
theorem wit_LowestBadAddressFaults :
    (((∃ x, Instr.drw 0 0 15 = .ldB x) ∧ 15 = 3) ∨
      (∃ x : Reg, (Instr.drw 0 0 15 = .ldMemVx x ∨ Instr.drw 0 0 15 = .ldVxMem x) ∧ 15 = x.val + 1) ∨
      (∃ x y, Instr.drw 0 0 15 = .drw x y 15)) ∧
    0xFFF < 0x1000 ∧ (busy.setI 0xFF2).i.toNat ≤ 0x1000 ∧ 0x1000 < (busy.setI 0xFF2).i.toNat + 15 ∧
    (∀ b : Nat, (busy.setI 0xFF2).i.toNat ≤ b → b < 0x1000 → b ≤ 0xFFF) ∧
    (busy.setI 0x1005).i.toNat ≤ 0x1005 ∧ 0x1005 < (busy.setI 0x1005).i.toNat + 15 ∧
    (∀ b : Nat, (busy.setI 0x1005).i.toNat ≤ b → b < 0x1005 → b ≤ 0xFFF) := by
  refine ⟨.inr (.inr ⟨0, 0, rfl⟩), by decide, by decide, by decide, fun b _ h => by omega, by decide, by decide, ?_⟩
  intro b h1 h2
  have : (busy.setI 0x1005).i.toNat = 0x1005 := by decide
  omega
/-- The state LD [I] leaves is itself such a `u`, with `pc` at a stored byte and one below it. -/
theorem wit_FetchSeesStores :
    let s := (busy.setI 0x200).setPc 0x200
    s.mem.wf = true ∧ s.i.toNat + 3 ≤ 4096 ∧ s.i.toNat + (15 : Reg).val + 1 ≤ 4096 ∧
    ∃ t : State, exec (.ldMemVx 15) s = .next t ∧ (∀ a ∈ s.indexAddrs 16, t.mem.read a = t.mem.read a) ∧
      t.fetch = .ok 0x03FE ∧ t.pc.toNat = s.i.toNat + (0 : Reg).val ∧ t.pc.toNat + 1 = s.i.toNat + (1 : Reg).val ∧ (1 : Reg) ≤ 15 :=
  ⟨by decide, by decide, by decide, _, rfl, fun _ _ => rfl, rfl, by decide, by decide, by decide⟩
theorem wit_FetchSeesStores_bcd :
    let s := (busy.setI 0x200).setPc 0x202
    ∃ t : State, exec (.ldB 1) s = .next t ∧ (∀ a ∈ s.indexAddrs 3, t.mem.read a = t.mem.read a) ∧
      t.fetch = .ok 0x040A ∧ t.pc.toNat = s.i.toNat + 2 :=
  ⟨_, rfl, fun _ _ => rfl, rfl, by decide⟩

theorem wit_DrawXorsEachCell :
    (busy.setI 0xFF1).i.toNat + 15 ≤ 4096 ∧ (0 : Nat) = 0 ∧ 0 < 15 ∧ 4096 < (busy.setI 0xFF2).i.toNat + 15 ∧
      4096 < (busy.setI 0x1000).i.toNat + 1 := by decide
/-- A sprite bit shows at (row 30, column 62) for the glyph at 0x000, and none beside the sprite. -/
theorem wit_spriteBit :
    let s := withRegs [(1, 62), (2, 30)]
    spriteBit s 1 2 5 30 62 = true ∧ spriteBit s 1 2 5 31 63 = false ∧ spriteBit s 1 2 5 0 0 = false := by decide
theorem wit_DrawTwiceRestoresDisplay :
    (∃ t, step ((busy.setDisp (Vector.replicate 32 (Vector.replicate 64 true))).withFetchWord 16 0x00E0) = .next t ∧
      t.disp.cell 0 0 = false ∧ (busy.setDisp (Vector.replicate 32 (Vector.replicate 64 true))).disp.cell 0 0 = true) ∧
    ∃ t, exec (.drw 0 1 5) busy = .next t ∧
      SameDraw busy ((t.writeV 2 3).writeV 3 0xFE) 0 1 2 3 ∧ ((t.writeV 2 3).writeV 3 0xFE).disp = t.disp :=
  ⟨⟨_, rfl, by decide, by decide⟩, _, rfl, ⟨rfl, fun _ => rfl, rfl, by decide, by decide⟩, rfl⟩
/-- The first three draws of L1.5: the grid is clear, the glyph shows, and each later state repeats the draw. -/
theorem wit_RedrawTogglesAndCollides :
    State.reset.i.toNat + 5 ≤ 4096 ∧ (∃ row col, spriteBit State.reset 0 1 5 row col = true) ∧
    (∀ row col, spriteBit State.reset 0 1 5 row col = true → State.reset.disp.cell row col = false) ∧
    ∃ t t' : State, exec (.drw 0 1 5) State.reset = .next t ∧ SameDraw State.reset t 0 1 0 1 ∧ t.disp = t.disp ∧
      exec (.drw 0 1 5) t = .next t' ∧ SameDraw State.reset t' 0 1 0 1 ∧ t'.disp = t'.disp :=
  ⟨by decide, ⟨0, 0, by decide⟩, fun row col _ => Display.clear_cell row col, _, _, rfl,
    ⟨rfl, fun _ => rfl, rfl, by decide, by decide⟩, rfl, rfl, ⟨rfl, fun _ => rfl, rfl, by decide, by decide⟩, rfl⟩

/-- One instruction for each clause, changing the part the clause is about. -/
theorem wit_OnlyNamedInstructionsWrite :
    (∃ t, exec (.ldI 0x123) busy = .next t ∧ t.i ≠ busy.i) ∧
    (∃ t, exec (.call 0x300) busy = .next t ∧ t.stack ≠ busy.stack) ∧
    (∃ t, exec (.ldB 1) (busy.setI 0x300) = .next t ∧ t.mem.read 0x300 ≠ busy.mem.read 0x300) ∧
    (∃ t, exec (.ldDtVx 1) busy = .next t ∧ t.dt ≠ busy.dt) ∧
    (∃ t, exec (.ldStVx 1) busy = .next t ∧ t.st ≠ busy.st) ∧
    (∃ t, exec (.ldVxK 1) (busy.setKeypad (keypadAfter [press 9] 0)) = .next t ∧ t.keypad ≠ keypadAfter [press 9] 0) ∧
    (∃ t, exec (.rnd 1 0xFF) busy = .next t ∧ t.draws ≠ busy.draws) :=
  ⟨⟨_, rfl, by decide⟩, ⟨_, rfl, by decide⟩, ⟨_, rfl, by decide⟩, ⟨_, rfl, by decide⟩, ⟨_, rfl, by decide⟩,
    ⟨_, rfl, by decide⟩, ⟨_, rfl, by decide⟩⟩
theorem wit_OnlyNamedInstructionsWrite_disp :
    ∃ t, exec (.drw 0 1 1) (withRegs [(0, 0), (1, 0)]) = .next t ∧ t.disp ≠ State.reset.disp :=
  ⟨_, rfl, fun h => by
    have := congrArg (fun d : Display => Display.cell d 0 0) h
    revert this; decide⟩
theorem wit_RegisterWritesFollowTheTable :
    (∃ t, exec (.addReg 0 1) busy = .next t ∧ t.readV 0 ≠ busy.readV 0 ∧ t.readV 15 ≠ busy.readV 15) ∧
    (∃ t, exec (.ldVxMem 15) busy = .next t ∧ t.readV 15 ≠ busy.readV 15) :=
  ⟨⟨_, rfl, by decide⟩, ⟨_, rfl, by decide⟩⟩

/-- Key F by its own number and, masked, by 0x1F; 0x10 the lowest that faults; each mode. -/
theorem wit_KeySkipsFollowAges :
    let s := withRegs [(2, 0xF), (3, 0x1F), (4, 0x10)]
    let m := withConfig s ({ · with keyIndex := .mask, keySkipNot := .released })
    (s.readV 2).toNat = (15 : Key).val ∧
      (0xF < (m.readV 3).toNat ∧ m.config.keyIndex = .mask ∧ (m.readV 3).toNat % 16 = (15 : Key).val) ∧
      (0xF < (m.readV 4).toNat ∧ (m.readV 4).toNat % 16 = (0 : Key).val) ∧
      s.config.keySkipNot = .notPressed ∧ m.config.keySkipNot = .released ∧
      0xF < (s.readV 4).toNat ∧ s.config.keyIndex = .fault := by decide
theorem wit_KeyWaitTakesFreshPress :
    ((keypadAfter [press 15] 0).pending.valid = true ∧ (keypadAfter [press 15] 0).pending.age = 0) ∧
      State.reset.keypad.pending.valid = false ∧
      ((keypadAfter [press 15] 1).pending.valid = true ∧ (keypadAfter [press 15] 1).pending.age ≠ 0) := by decide
theorem wit_BlockedKeyWaitTickIsIdle :
    let s := busy.setPc 0x202
    s.fault = none ∧ s.pc.toNat ≤ 0xFFE ∧
      decode (wordOfBytes (s.mem.read s.pc.toNat) (s.mem.read (s.pc.toNat + 1))) = .ok (.ldVxK 3) ∧
      (s.keypad.update [release 3]).pending.valid = false ∧ ((keypadAfter [press 7] 0).update []).pending.age ≠ 0 := by decide
theorem wit_KeypadAgesThenTakesEvents :
    (∀ e ∈ [release 3, release 4], e.kind = .released) ∧
      [press 3, press 9, release 9] = [press 3] ++ { key := 9, kind := .pressed } :: [release 9] ∧
      (∀ e ∈ [release 9], e.kind = .released) := by decide
/-- L1.6: three later ticks and four. -/
theorem wit_PressIsVisibleForFourTicks :
    ({ key := 5, kind := .pressed } : KeyEvent) ∈ [press 5, release 5] ∧
      (∀ batch ∈ [[], [release 5], [press 4], []], ({ key := 5, kind := .pressed } : KeyEvent) ∉ batch) ∧
      ([[], [release 5], [press 4]] : List (List KeyEvent)).length ≤ 3 ∧
      ¬ ([[], [release 5], [press 4], []] : List (List KeyEvent)).length ≤ 3 := by decide

theorem wit_TimersDecay :
    let m := withConfig busy ({ · with timerDecay := .mod60 })
    busy.config.timerDecay = .saturate ∧ m.config.timerDecay = .mod60 ∧ (m.setDt 59).dt.toNat < 60 ∧ (m.setSt 0).st.toNat < 60 := by
  decide
/-- A core that is not halted, with a tick that runs to its end and one that faults in its first slot. -/
theorem wit_TickRunsBatchThenDecays :
    busy.fault = none ∧ State.reset.fault = none ∧
      (∃ t, stepTick [press 1] busy = .next t ∧ t.fault = none ∧ t.readV 2 = 0xFE) ∧
      (∃ t, stepTick [] State.reset = .next t ∧ t.fault = faultAt200 .unknownOpcode 0 0) :=
  ⟨rfl, rfl, ⟨_, rfl, by decide, by decide⟩, ⟨_, rfl, by decide⟩⟩
/-- A boundary with the host's tick pending, and one with no move pending. -/
theorem wit_StepsMakeUpTheTick :
    let s := withConfig busy ({ · with ipt := 2 })
    let p := s.setInputs [.tick [press 3], .reset]
    p.tick = .boundary ∧ p.inputs = .tick [press 3] :: [.reset] ∧ s.tick = .boundary ∧ s.inputs = [] := by decide

/-- The longest image construction accepts, and the shortest it refuses. -/
theorem wit_ConstructionGivesInitialState :
    ({ defaultParams with image := List.replicate 3584 1 } : Params).image.length ≤ 3584 ∧
      3584 < ({ defaultParams with image := List.replicate 3585 1 } : Params).image.length :=
  ⟨Nat.le_of_eq List.length_replicate, Nat.lt_of_lt_of_eq (Nat.lt_succ_self 3584) List.length_replicate.symm⟩
theorem wit_HostResetGivesInitialState :
    let s := stopped.setInputs [.reset, .tick []]
    s.tick = .boundary ∧ s.inputs = .reset :: [.tick []] ∧ s.params.image.length ≤ 3584 := by decide
theorem wit_ParametersNeverChange : ∃ t, step busy = .next t ∧ t.pc = 0x202 := ⟨_, rfl, by decide⟩
theorem wit_HostRegisterMap :
    busy.fault = none ∧ stopped.fault = faultAt200 .unknownOpcode 0 0 ∧
      (let s := busy.setInputs [.writeRegister 0 7]; s.tick = .boundary ∧ s.inputs = .writeRegister 0 7 :: []) := by decide
theorem wit_DisplayAndSoundOutputs : (31 : Fin 32).val * 64 + (63 : Fin 64).val < 2048 := by decide

/-- A state that meets every invariant and steps, with memory listed and a key pending. -/
theorem wit_InvariantsAreKept :
    let s := (busy.setKeypad (keypadAfter [press 9] 2)).setTick (.batch 1)
    s.Inv ∧ ∃ t, step s = .next t ∧ t.pc = 0x202 := by
  refine ⟨⟨⟨by decide, by decide⟩, ⟨by decide, by decide⟩, fun _ => ⟨by decide, by decide⟩, fun f h => ?_, ⟨rfl, by decide, by decide⟩⟩,
    _, rfl, by decide⟩
  cases h
/-- The FAULT registers of a halted state fit R241. -/
theorem wit_FaultInvIsKept : stopped.FaultInv ∧ ∃ t, step stopped = .next t ∧ t.pc = 0x200 := by
  refine ⟨fun f h => ?_, _, rfl, by decide⟩
  have hf : stopped.fault = faultAt200 .unknownOpcode 0 0 := by decide
  rw [hf] at h
  cases h
  exact ⟨by decide, by decide, rfl⟩
theorem wit_InvAtReset : ∃ s, construct defaultParams = .next s ∧ s.pc = 0x200 := ⟨_, rfl, rfl⟩
theorem wit_ReachableStatesMeetInv :
    Reachable ((State.reset.setInputs [.tick [press 1]]).setDraws { random := 3, decay := 4 }) :=
  Reachable.start defaultParams State.reset [.tick [press 1]] { random := 3, decay := 4 } (by
    show Host.Outcome.next (State.init defaultParams) = .next State.reset
    rw [test_reset_is_init])

end Sys2Proof.Tests
end

/-! ## Configuration, font and image (00_scope.md R10, R270, R274) -/

namespace Sys2Proof.Machine

/-- A running slot keeps the configuration, the font and the image: fault entry writes the fault registers and `pc`
alone, and `ExecEffect` says it of every instruction. -/
theorem stepInstr_params {s t : State} (hs : s.fault = none) (h : stepInstr s = .next t) : t.params = s.params := by
  rcases stepInstr_cases s hs with ⟨_, hfetch⟩ | ⟨_, _, _, _, _, hdecode⟩ | ⟨_, _, i, _, _, hexec⟩
  · rw [hfetch] at h; cases h; rfl
  · rw [hdecode] at h; cases h; rfl
  · rw [hexec] at h
    exact (exec_effect i s.advancePc t h).params_eq

/-- Settles O48: each part a step is made of keeps the parameters, and a reset builds its state from those kept. -/
theorem parametersNeverChange : Obligations.ParametersNeverChange := by
  intro s t hstep
  refine step_keeps (·.params = s.params) ?setTick ?setInputs ?keypadPhase ?decayTimers ?slot ?reset
    s t rfl hstep
  case setTick => intro u p hu; exact hu
  case setInputs => intro u l hu; exact hu
  case keypadPhase => intro u ev _ hu; exact hu
  case decayTimers => intro u hu; exact hu
  case slot => intro u v hrun hu hslot; exact (stepInstr_params hrun hslot).trans hu
  case reset => intro u l d hu _; exact hu

end Sys2Proof.Machine

/-! ## Accepted and rejected words (30_encoding.md R74, R77, R79) -/

namespace Sys2Proof

/-- What a decoder may answer of a word: it rejects the word by name (R77, R94), or gives an instruction that has an
encoding (R72). -/
def AnswersWellFormed (w : Word) (answer : Except Rejection Instr) : Prop :=
  answer = .error (.unknownOpcode w) ∨ ∃ i, answer = .ok i ∧ i.wellFormed = true

theorem decodeAlu_answersWellFormed (w : Word) : AnswersWellFormed w (decodeAlu w) := by
  unfold decodeAlu
  split <;> simp [AnswersWellFormed, Instr.wellFormed]

theorem decodeKey_answersWellFormed (w : Word) : AnswersWellFormed w (decodeKey w) := by
  unfold decodeKey
  split <;> simp [AnswersWellFormed, Instr.wellFormed]

theorem decodeMisc_answersWellFormed (w : Word) : AnswersWellFormed w (decodeMisc w) := by
  unfold decodeMisc
  split <;> simp [AnswersWellFormed, Instr.wellFormed]

theorem decode_answersWellFormed (w : Word) : AnswersWellFormed w (decode w) := by
  have height : (fieldN w).toNat ≤ 15 := by have := (fieldN w).isLt; omega
  unfold decode
  split
  case h_1 | h_6 | h_10 => split_ifs <;> simp [AnswersWellFormed, Instr.wellFormed]
  case h_9 => exact decodeAlu_answersWellFormed w
  case h_15 => exact decodeKey_answersWellFormed w
  case h_16 => exact decodeMisc_answersWellFormed w
  all_goals simp [AnswersWellFormed, Instr.wellFormed, height]

/-- An accepted word gives an instruction within the bounds of its fields (R72). -/
theorem wellFormed_of_decode {w : Word} {i : Instr} (h : decode w = .ok i) : i.wellFormed = true := by
  rcases decode_answersWellFormed w with herr | ⟨j, hok, hwf⟩
  · rw [herr] at h; cases h
  · rw [hok] at h; cases h; exact hwf

/-- A word is rejected only as the unknown opcode it is (R94). -/
theorem decode_error {w : Word} {r : Rejection} (h : decode w = .error r) : r = .unknownOpcode w := by
  rcases decode_answersWellFormed w with herr | ⟨j, hok, _⟩
  · rw [herr] at h; cases h; rfl
  · rw [hok] at h; cases h

/-- The decoder reads a well-formed instruction back from its word, form by form (R74, R75). -/
theorem decode_encode {i : Instr} (h : i.wellFormed = true) : decode (encode i) = .ok i := by
  cases i with
  | cls | ret => rfl
  | jp nnn | call nnn | ldI nnn | jpV0 nnn => simp [encode, decode]
  | seImm x nn | sneImm x nn | ldImm x nn | addImm x nn | rnd x nn => simp [encode, decode]
  | seReg x y | sneReg x y => simp [encode, decode]
  | drw x y n =>
    have height : n ≤ 15 := of_decide_eq_true h
    simp [encode, decode]; omega
  | skp x | sknp x => simp [encode, decode, decodeKey]
  | ldVxDt x | ldVxK x | ldDtVx x | ldStVx x | addI x | ldF x | ldB x | ldMemVx x | ldVxMem x =>
    simp [encode, decode, decodeMisc]
  | ldReg x y | orReg x y | andReg x y | xorReg x y | addReg x y | sub x y | shr x y | subn x y | shl x y =>
    simp [encode, decode, decodeAlu]

end Sys2Proof

/-! ## What a running slot can do (40_pipeline.md R98) -/

namespace Sys2Proof.Machine

/-- A running slot raises a fault of fetch or decode, which writes the FAULT registers alone, or executes at the advanced
`pc` an instruction that its word encodes. -/
theorem stepInstr_effects {s t : State} (hs : s.fault = none) (h : stepInstr s = .next t) :
    (∃ f : FaultRecord, f.fits ∧ f.pc = s.pc ∧ t = { s with fault := some f }) ∨
    (∃ i, s.pc.toNat ≤ 0xFFE ∧ decode (encode i) = .ok i ∧ exec i s.advancePc = .next t) := by
  rcases stepInstr_cases s hs with ⟨hpc, hfetch⟩ | ⟨_, w, r, _, hw, hdecode⟩ | ⟨hpc, w, i, _, hw, hexec⟩
  · rw [hfetch] at h; cases h
    refine .inl ⟨⟨.addressOutOfRange, s.pc, 0, BitVec.ofNat 16 (max s.pc.toNat memSize)⟩, ⟨.inl rfl, ?_⟩, rfl, rfl⟩
    have := s.pc.isLt
    simp only [memSize, BitVec.toNat_ofNat]; omega
  · rw [hdecode] at h; cases h
    exact .inl ⟨⟨.unknownOpcode, s.pc, w, 0⟩, ⟨decode_error hw ▸ hw, rfl⟩, rfl, rfl⟩
  · exact .inr ⟨i, hpc, decode_encode (wellFormed_of_decode hw), hexec ▸ h⟩

/-! ## The invariants at the start (70_reset_and_hazards.md R271, R272) -/

/-- The initial state of an image that fits meets every invariant, whatever host moves are pending and however many free
values have been drawn: no invariant looks at either. -/
theorem init_inv {p : Params} (h : p.image.length ≤ maxImage) (moves : List HostInput) (d : Draws) :
    (((State.init p).setInputs moves).setDraws d).Inv where
  memory := ⟨initMemory_wf p h, h⟩
  pc := by
    have hreset : State.reset.PcInv := ⟨by decide, by decide⟩
    exact ⟨hreset.pc_le, hreset.entries_le⟩
  pending := fun hvalid => by cases hvalid
  fault := fun f hf => by cases hf
  tick := trivial

/-- A construction the host accepts is `init` of an image that fits (R68, R270). -/
theorem construct_eq_next {p : Params} {s : State} (h : construct p = .next s) :
    p.image.length ≤ maxImage ∧ s = State.init p := by
  unfold construct at h
  split at h
  · next himage => cases h; exact ⟨himage, rfl⟩
  · cases h

/-- Settles O56: reset is the construction with the default parameters, and construction is `init` of an image that
fits. -/
theorem invAtReset : Obligations.InvAtReset := by
  refine ⟨?_, fun p s h => ?_⟩
  · exact init_inv (p := defaultParams) (Nat.zero_le _) [] State.reset.draws
  · obtain ⟨himage, rfl⟩ := construct_eq_next h
    exact init_inv himage [] State.reset.draws

/-! ## `pc` and the return addresses (10_state.md R24) -/

/-- A running slot keeps the bounds of R24: it executes at an advanced `pc` of 2 to 0x1000, where `ExecEffect` bounds
what every instruction leaves. -/
theorem stepInstr_pcInv {s t : State} (hs : s.fault = none) (hinv : s.PcInv) (h : stepInstr s = .next t) : t.PcInv := by
  obtain ⟨hpc, hentries⟩ := hinv
  rcases stepInstr_effects hs h with ⟨f, _, _, rfl⟩ | ⟨i, hlow, _, hexec⟩
  · exact ⟨hpc, hentries⟩
  · have hadv : s.advancePc.pc.toNat = s.pc.toNat + 2 := by
      rw [State.advancePc_pc, BitVec.toNat_add, show BitVec.toNat (2 : Word) = 2 from rfl]; omega
    obtain ⟨hentries', hpc'⟩ := (exec_effect i _ t hexec).bounds hentries (by omega) (by omega)
    exact ⟨hpc', hentries'⟩

/-- Settles O52: a slot is the one part of a step that moves `pc` or the stack, beside the reset. -/
theorem pcInvIsKept : Obligations.PcInvIsKept := by
  intro s t hinv hstep
  refine step_keeps State.PcInv ?setTick ?setInputs ?keypadPhase ?decayTimers ?slot ?reset s t hinv hstep
  case setTick => exact fun u p hu => ⟨hu.pc_le, hu.entries_le⟩
  case setInputs => exact fun u l hu => ⟨hu.pc_le, hu.entries_le⟩
  case keypadPhase => exact fun u ev _ hu => ⟨hu.pc_le, hu.entries_le⟩
  case decayTimers => exact fun u hu => ⟨hu.pc_le, hu.entries_le⟩
  case slot => exact fun u v hrun hu hslot => stepInstr_pcInv hrun hu hslot
  case reset => exact fun u l d _ himage => (init_inv himage l d).pc

/-! ## The PendingKeyWait record (10_state.md R32, 45_keypad.md R200 to R202) -/

/-- Phase 1 ages a valid record (R200). -/
theorem Keypad.age_pending_of_valid {k : Keypad} (h : k.pending.valid = true) :
    k.age.pending = { k.pending with age := ageStep k.pending.age } := if_pos h

/-- Phase 1 leaves a consumed record as it is (R200). -/
theorem Keypad.age_pending_of_not_valid {k : Keypad} (h : k.pending.valid = false) : k.age.pending = k.pending :=
  if_neg (by simp [h])

/-- Phase 1 ages the record with its key, and keeps the order of the ages. -/
theorem Keypad.age_pendingFits {k : Keypad} (h : k.PendingFits) : k.age.PendingFits := by
  intro hvalid
  cases hk : k.pending.valid with
  | false =>
    rw [Keypad.age_pending_of_not_valid hk, hk] at hvalid
    cases hvalid
  | true =>
    obtain ⟨hage, hmin⟩ := h hk
    simp only [Keypad.age_pending_of_valid hk, Keypad.age_pressAge, hage, ageStep_toNat, true_and]
    intro j
    have := hmin j
    omega

/-- A press makes its key the record's, both at age 0; a release touches neither the record nor a press age. -/
theorem Keypad.event_pendingFits {k : Keypad} (h : k.PendingFits) (e : KeyEvent) : (k.event e).PendingFits := by
  obtain ⟨key, kind⟩ := e
  cases kind with
  | pressed =>
    intro _
    refine ⟨?_, fun j => Nat.zero_le _⟩
    exact (Keypad.event_pressAge k _ key).trans (if_pos rfl)
  | released => exact h

/-- Phases 1 and 2 keep the record that of the latest press. -/
theorem Keypad.update_pendingFits {k : Keypad} (h : k.PendingFits) (events : List KeyEvent) :
    (k.update events).PendingFits :=
  List.foldlRecOn events Keypad.event (Keypad.age_pendingFits h) fun _ hk e _ => Keypad.event_pendingFits hk e

/-- A consumed record is not valid (R209). -/
theorem Keypad.consume_pendingFits (k : Keypad) : k.consume.PendingFits := fun hvalid => by cases hvalid

/-- A running slot leaves the keypad block as it is or consumes the record. -/
theorem stepInstr_pendingInv {s t : State} (hs : s.fault = none) (hinv : s.PendingInv) (h : stepInstr s = .next t) :
    t.PendingInv := by
  rcases stepInstr_effects hs h with ⟨f, _, _, rfl⟩ | ⟨i, _, _, hexec⟩
  · exact hinv
  · unfold State.PendingInv at hinv ⊢
    rcases (exec_effect i _ t hexec).keypad_or with hsame | hconsumed
    · rw [hsame]; exact hinv
    · rw [hconsumed]; exact Keypad.consume_pendingFits _

/-- Settles O53: the keypad phases age the record with its key or give it the last press, and a slot at most consumes
it. -/
theorem pendingInvIsKept : Obligations.PendingInvIsKept := by
  intro s t hinv hstep
  refine step_keeps State.PendingInv ?setTick ?setInputs ?keypadPhase ?decayTimers ?slot ?reset s t hinv hstep
  case setTick => exact fun u p hu => hu
  case setInputs => exact fun u l hu => hu
  case keypadPhase => exact fun u ev _ hu => Keypad.update_pendingFits hu ev
  case decayTimers => exact fun u hu => hu
  case slot => exact fun u v hrun hu hslot => stepInstr_pendingInv hrun hu hslot
  case reset => exact fun u l d _ himage => (init_inv himage l d).pending

/-! ## Memory, FAULT registers and the place in the tick: the other invariants a run keeps -/

/-- A running slot keeps memory in its canonical form and the image kept for a reset. -/
theorem stepInstr_memInv {s t : State} (hs : s.fault = none) (hinv : s.MemInv) (h : stepInstr s = .next t) :
    t.MemInv := by
  refine ⟨?_, (stepInstr_params hs h).symm ▸ hinv.image_fits⟩
  rcases stepInstr_effects hs h with ⟨f, _, _, rfl⟩ | ⟨i, _, _, hexec⟩
  · exact hinv.mem_wf
  · exact (exec_effect i _ t hexec).mem_wf hinv.mem_wf

/-- Every step keeps memory in its canonical form and the image in bounds (R50, R68). -/
theorem step_memInv {s t : State} (hinv : s.MemInv) (hstep : step s = .next t) : t.MemInv := by
  refine step_keeps State.MemInv ?setTick ?setInputs ?keypadPhase ?decayTimers ?slot ?reset s t hinv hstep
  case setTick => exact fun u p hu => ⟨hu.mem_wf, hu.image_fits⟩
  case setInputs => exact fun u l hu => ⟨hu.mem_wf, hu.image_fits⟩
  case keypadPhase => exact fun u ev _ hu => ⟨hu.mem_wf, hu.image_fits⟩
  case decayTimers => exact fun u hu => ⟨hu.mem_wf, hu.image_fits⟩
  case slot => exact fun u v hrun hu hslot => stepInstr_memInv hrun hu hslot
  case reset => exact fun u l d _ himage => (init_inv himage l d).memory

/-- What a running slot leaves in the FAULT registers is nothing, or a fault of the table of R241 at `pc`. -/
theorem stepInstr_faultInv {s t : State} (hs : s.fault = none) (h : stepInstr s = .next t) : t.FaultInv := by
  intro g hg
  rcases stepInstr_effects hs h with ⟨f, hfits, hpc, rfl⟩ | ⟨i, _, hdecode, hexec⟩
  · cases hg; exact ⟨hpc, hfits⟩
  · rcases (exec_effect i _ t hexec).fault_or with hsame | ⟨f, hf, hpc, hfits⟩
    · rw [hsame, State.advancePc_fault, hs] at hg; cases hg
    · rw [hf] at hg; cases hg; exact ⟨hpc, hfits hdecode⟩

/-- Every step keeps the FAULT registers those of a fault at `pc` that fits R241 (R243, R244). -/
theorem step_faultInv {s t : State} (hinv : s.FaultInv) (hstep : step s = .next t) : t.FaultInv := by
  refine step_keeps State.FaultInv ?setTick ?setInputs ?keypadPhase ?decayTimers ?slot ?reset s t hinv hstep
  case setTick => exact fun u p hu => hu
  case setInputs => exact fun u l hu => hu
  case keypadPhase => exact fun u ev _ hu => hu
  case decayTimers => exact fun u hu => hu
  case slot => exact fun u v hrun _ hslot => stepInstr_faultInv hrun hslot
  case reset => exact fun u l d _ himage => (init_inv himage l d).fault

/-- A state at the boundary is in order. -/
theorem State.tickInv_of_boundary {s : State} (h : s.tick = .boundary) : s.TickInv := by
  simp [State.TickInv, h]

/-- The end of a slot, with no more slots left than the tick has: a fault and the last slot end the tick (R99, R106). -/
theorem State.closeSlot_tickInv {s : State} {left : Nat} (h : left ≤ s.config.ipt.toNat) :
    (s.closeSlot left).TickInv := by
  unfold State.closeSlot
  split
  · exact State.tickInv_of_boundary rfl
  · next hrun =>
    split
    · exact State.tickInv_of_boundary rfl
    · next hleft => exact ⟨by simpa [State.halted] using hrun, Nat.pos_of_ne_zero hleft, h⟩

/-- A slot inside a tick leaves the tick in order. -/
theorem State.slotInTick_tickInv {s t : State} {n : Nat} (hn : n ≤ s.config.ipt.toNat) (h : s.slotInTick n = .next t) :
    t.TickInv := by
  unfold State.slotInTick at h
  split at h
  · cases h; exact State.tickInv_of_boundary rfl
  · next hrun =>
    have hs : s.fault = none := by simpa [State.halted] using hrun
    cases n with
    | zero => cases h; exact State.tickInv_of_boundary rfl
    | succ left =>
      obtain ⟨u, hu⟩ := stepInstr_next s
      simp only [hu] at h; cases h
      have hconfig : u.config = s.config := congrArg Params.config (stepInstr_params hs hu)
      exact State.closeSlot_tickInv (by rw [hconfig]; omega)

/-- The first step of a tick leaves the tick in order; a halted core stays at its boundary (R245). -/
theorem State.beginTick_tickInv {s t : State} {events : List KeyEvent} (hs : s.tick = .boundary)
    (h : s.beginTick events = .next t) : t.TickInv := by
  unfold State.beginTick at h
  split at h
  · cases h; exact State.tickInv_of_boundary hs
  · exact State.slotInTick_tickInv (Nat.le_refl _) h

/-- Every step keeps the tick in order (R99, R106). -/
theorem step_tickInv {s t : State} (hinv : s.TickInv) (hstep : step s = .next t) : t.TickInv := by
  rcases step_cases s with ⟨n, hs, e⟩ | ⟨hs, _, e⟩ | ⟨hs, ev, rest, _, e⟩ | ⟨_, rest, _, e⟩ | ⟨hs, _, _, rest, _, e⟩ <;>
    rw [e] at hstep
  · have hn : n ≤ s.config.ipt.toNat := by
      rw [State.TickInv, hs] at hinv
      exact hinv.2.2
    exact State.slotInTick_tickInv hn hstep
  · exact State.beginTick_tickInv hs hstep
  · exact State.beginTick_tickInv (s := s.setInputs rest) hs hstep
  · rcases (s.setInputs rest).restart_cases with ⟨himage, hr⟩ | ⟨_, hr⟩ <;> rw [hr] at hstep <;> cases hstep
    exact (init_inv himage _ _).tick
  · cases hstep; exact State.tickInv_of_boundary hs

/-- Every step keeps all the invariants. -/
theorem step_inv {s t : State} (hinv : s.Inv) (hstep : step s = .next t) : t.Inv where
  memory := step_memInv hinv.memory hstep
  pc := pcInvIsKept s t hinv.pc hstep
  pending := pendingInvIsKept s t hinv.pending hstep
  fault := step_faultInv hinv.fault hstep
  tick := step_tickInv hinv.tick hstep

/-- Settles O57, by induction on the run: construction gives the initial state of an image that fits, and every step
keeps the invariants. -/
theorem reachableStatesMeetInv : Obligations.ReachableStatesMeetInv := by
  intro s hreach
  induction hreach with
  | start p s moves d hconstruct =>
    obtain ⟨himage, rfl⟩ := construct_eq_next hconstruct
    exact init_inv himage moves d
  | step s t _ hstep hinv => exact step_inv hinv hstep

end Sys2Proof.Machine

/-! ## Frames of the state's operations -/

namespace Sys2Proof.Machine

theorem Frame.refl (regs : List Reg) (addrs : List Nat) (parts : List Part) (s : State) : Frame regs addrs parts s s where
  regs_same _ _ := rfl
  mem_same _ _ := rfl
  parts_same p _ := by cases p <;> rfl

theorem Part.same_trans {s t u : State} {p : Part} (hst : p.same s t) (htu : p.same t u) : p.same s u := by
  cases p <;> exact Eq.trans htu hst

section
variable {regs : List Reg} {addrs : List Nat} {parts : List Part} {s t u : State}

theorem Frame.trans (hst : Frame regs addrs parts s t) (htu : Frame regs addrs parts t u) :
    Frame regs addrs parts s u where
  regs_same r hr := (htu.regs_same r hr).trans (hst.regs_same r hr)
  mem_same a ha := (htu.mem_same a ha).trans (hst.mem_same a ha)
  parts_same p hp := Part.same_trans (hst.parts_same p hp) (htu.parts_same p hp)

/-- A part that has changed is one the frame names. -/
theorem Frame.mem_of_changed (hst : Frame regs addrs parts s t) {p : Part} (h : ¬ p.same s t) : p ∈ parts :=
  by_contra fun hp => h (hst.parts_same p hp)

theorem frame_writeV {x : Reg} (hx : x ∈ regs) (s : State) (b : Byte) : Frame regs addrs parts s (s.writeV x b) where
  regs_same _ hr := State.readV_writeV_ne s b (ne_of_mem_of_not_mem hx hr).symm
  mem_same _ _ := rfl
  parts_same p _ := by cases p <;> rfl

theorem frame_writeFlag (hf : 15 ∈ regs) (s : State) (b : Bool) : Frame regs addrs parts s (s.writeFlag b) :=
  frame_writeV (x := vf) hf s (flagByte b)

theorem frame_clearFlagIfVfReset (hf : s.config.vfReset = true → 15 ∈ regs) :
    Frame regs addrs parts s s.clearFlagIfVfReset := by
  unfold State.clearFlagIfVfReset
  split
  · next hreset => exact frame_writeV (x := vf) (hf hreset) s 0
  · exact Frame.refl _ _ _ s

theorem frame_loadRegs {x : Reg} (hx : ∀ r ≤ x, r ∈ regs) (s : State) : Frame regs addrs parts s (s.loadRegs x) where
  regs_same r hr := by rw [State.readV_loadRegs, if_neg fun hle => hr (hx r hle)]
  mem_same _ _ := rfl
  parts_same p _ := by cases p <;> rfl

theorem frame_setPc (s : State) (w : Word) : Frame regs addrs parts s (s.setPc w) where
  regs_same _ _ := rfl
  mem_same _ _ := rfl
  parts_same p _ := by cases p <;> rfl

theorem frame_skipIf (s : State) (c : Bool) : Frame regs addrs parts s (s.skipIf c) := by
  rw [State.skipIf_eq]; exact frame_setPc s _

theorem frame_writeBytes (s : State) (bs : List Byte) (ha : ∀ a ∈ s.indexAddrs bs.length, a ∈ addrs) :
    Frame regs addrs parts s (s.setMem (s.mem.writeBytes (s.indexAddr 0) bs)) where
  regs_same _ _ := rfl
  mem_same a hna := by
    refine Memory.read_writeBytes_ne _ _ _ _ ?_
    by_contra hin
    simp only [State.indexAddr] at hin
    exact hna (ha a (List.mem_map.2 ⟨a - s.i.toNat, List.mem_range.2 (by omega), by simp only [State.indexAddr]; omega⟩))
  parts_same p _ := by cases p <;> rfl

theorem frame_setI (hp : .i ∈ parts) (s : State) (w : Word) : Frame regs addrs parts s (s.setI w) where
  regs_same _ _ := rfl
  mem_same _ _ := rfl
  parts_same p hn := by cases p with
    | i => exact absurd hp hn
    | _ => rfl

theorem frame_setStack (hp : .stack ∈ parts) (s : State) (k : CallStack) : Frame regs addrs parts s (s.setStack k) where
  regs_same _ _ := rfl
  mem_same _ _ := rfl
  parts_same p hn := by cases p with
    | stack => exact absurd hp hn
    | _ => rfl

theorem frame_setDisp (hp : .disp ∈ parts) (s : State) (d : Display) : Frame regs addrs parts s (s.setDisp d) where
  regs_same _ _ := rfl
  mem_same _ _ := rfl
  parts_same p hn := by cases p with
    | disp => exact absurd hp hn
    | _ => rfl

theorem frame_setDt (hp : .dt ∈ parts) (s : State) (b : Byte) : Frame regs addrs parts s (s.setDt b) where
  regs_same _ _ := rfl
  mem_same _ _ := rfl
  parts_same p hn := by cases p with
    | dt => exact absurd hp hn
    | _ => rfl

theorem frame_setSt (hp : .st ∈ parts) (s : State) (b : Byte) : Frame regs addrs parts s (s.setSt b) where
  regs_same _ _ := rfl
  mem_same _ _ := rfl
  parts_same p hn := by cases p with
    | st => exact absurd hp hn
    | _ => rfl

theorem frame_setKeypad (hp : .keypad ∈ parts) (s : State) (k : Keypad) : Frame regs addrs parts s (s.setKeypad k) where
  regs_same _ _ := rfl
  mem_same _ _ := rfl
  parts_same p hn := by cases p with
    | keypad => exact absurd hp hn
    | _ => rfl

theorem frame_consumeRandom (hp : .draws ∈ parts) (s : State) : Frame regs addrs parts s s.consumeRandom where
  regs_same _ _ := rfl
  mem_same _ _ := rfl
  parts_same p hn := by cases p with
    | draws => exact absurd hp hn
    | _ => rfl

theorem frame_enterFault (hp : .fault ∈ parts) (s : State) (c : Fault) (pc0 opcode addr : Word) :
    Frame regs addrs parts s (s.enterFault c pc0 opcode addr) where
  regs_same _ _ := rfl
  mem_same _ _ := rfl
  parts_same p hn := by cases p with
    | fault => exact absurd hp hn
    | _ => rfl

/-- A checked access has the frame of its effect, and may write the FAULT registers instead (R60). -/
theorem frame_withRange {i : Instr} {count : Nat} (heffect : Frame regs addrs parts s u) (hp : .fault ∈ parts)
    (h : withRange i count s u = .next t) : Frame regs addrs parts s t := by
  rcases withRange_inv _ _ _ _ _ h with ⟨_, rfl⟩ | ⟨w, _, rfl⟩
  · exact heffect
  · exact frame_enterFault hp s _ _ _ _

end

/-! ## The frame of every instruction (10_state.md R22, R26, R28, R30 to R32, R51, R101, R186) -/

/-- The addresses an instruction may write: those of FX33 and FX55 (R51). -/
def writtenAddrs (s : State) : Instr → List Nat
  | .ldB _ => s.indexAddrs 3
  | .ldMemVx x => s.indexAddrs (x.val + 1)
  | _ => []

/-- The parts an instruction may write, the FAULT registers of an instruction that can raise a fault among them. -/
def writtenParts : Instr → List Part
  | .ldI _ | .addI _ | .ldF _ => [.i]
  | .ldMemVx _ | .ldVxMem _ => [.i, .fault]
  | .ret | .call _ => [.stack, .fault]
  | .cls => [.disp]
  | .drw _ _ _ => [.disp, .fault]
  | .ldDtVx _ => [.dt]
  | .ldStVx _ => [.st]
  | .ldVxK _ => [.keypad]
  | .rnd _ _ => [.draws]
  | .ldB _ | .skp _ | .sknp _ => [.fault]
  | .jp _ | .jpV0 _ | .seImm _ _ | .sneImm _ _ | .seReg _ _ | .sneReg _ _ | .ldImm _ _ | .addImm _ _ | .ldReg _ _
  | .orReg _ _ | .andReg _ _ | .xorReg _ _ | .addReg _ _ | .sub _ _ | .shr _ _ | .subn _ _ | .shl _ _ | .ldVxDt _ => []

/-- The logic operations write V[x], and VF under VF_RESET (R133 to R135). -/
theorem frame_logic (x : Reg) (b : Byte) (s : State) :
    Frame (if s.config.vfReset then [x, 15] else [x]) [] [] s (s.writeV x b).clearFlagIfVfReset := by
  have hx : x ∈ (if s.config.vfReset then [x, 15] else [x]) := by split <;> simp
  refine (frame_writeV hx s b).trans (frame_clearFlagIfVfReset fun hreset => ?_)
  rw [State.writeV_config] at hreset
  simp [hreset]

/-- The arithmetic operations write V[x] and then VF (R143). -/
theorem frame_writeV_writeFlag (x : Reg) (b : Byte) (f : Bool) (s : State) :
    Frame [x, 15] [] [] s ((s.writeV x b).writeFlag f) :=
  (frame_writeV (by simp) s b).trans (frame_writeFlag (by simp) _ f)

/-- Every instruction writes at most the registers of its row of R22, its addresses and its parts, whether or not it
faults. -/
theorem exec_frame (i : Instr) (s t : State) (h : exec i s = .next t) :
    Frame (writtenRegs s.config i) (writtenAddrs s i) (writtenParts i) s t := by
  cases i with
  | cls => cases h; exact frame_setDisp (by simp [writtenParts]) s _
  | ret =>
    rcases s.stack.pop_cases with ⟨_, k, hpop, _⟩ | ⟨_, hpop⟩ <;> simp only [exec, execRet, hpop] at h <;> cases h
    · exact (frame_setStack (by simp [writtenParts]) s k).trans (frame_setPc _ _)
    · exact frame_enterFault (by simp [writtenParts]) s _ _ _ _
  | call nnn =>
    rcases s.stack.push_cases s.pc with ⟨_, k, hpush, _⟩ | ⟨_, hpush⟩ <;> simp only [exec, execCall, hpush] at h <;> cases h
    · exact (frame_setStack (by simp [writtenParts]) s k).trans (frame_setPc _ _)
    · exact frame_enterFault (by simp [writtenParts]) s _ _ _ _
  | jp nnn | jpV0 nnn => cases h; exact frame_setPc s _
  | seImm x nn | sneImm x nn => cases h; exact frame_skipIf s _
  | seReg x y | sneReg x y => cases h; exact frame_skipIf s _
  | ldImm x nn | addImm x nn => cases h; exact frame_writeV (by simp [writtenRegs]) s _
  | ldReg x y => cases h; exact frame_writeV (by simp [writtenRegs]) s _
  | ldVxDt x => cases h; exact frame_writeV (by simp [writtenRegs]) s _
  | orReg x y | andReg x y | xorReg x y => cases h; exact frame_logic x _ s
  | addReg x y | sub x y | shr x y | subn x y | shl x y => cases h; exact frame_writeV_writeFlag x _ _ s
  | ldI nnn => cases h; exact frame_setI (by simp [writtenParts]) s _
  | ldF x => cases h; exact frame_setI (by simp [writtenParts]) s _
  | addI x =>
    have hindex : ∀ w, Frame (writtenRegs s.config (.addI x)) [] [.i] s (s.setI w) := frame_setI (by simp) s
    simp only [exec, execAddI] at h; cases h
    split
    · next hamiga => exact (hindex _).trans (frame_writeFlag (by simp [writtenRegs, hamiga]) _ _)
    · exact hindex _
  | rnd x nn =>
    cases h
    exact (frame_consumeRandom (by simp [writtenParts]) s).trans (frame_writeV (by simp [writtenRegs]) _ _)
  | drw x y n =>
    refine frame_withRange ?_ (by simp [writtenParts]) h
    exact (frame_setDisp (by simp [writtenParts]) s _).trans (frame_writeFlag (by simp [writtenRegs]) _ _)
  | skp x | sknp x =>
    simp only [exec, execSkp, execSknp] at h
    split at h <;> cases h
    · exact frame_skipIf s _
    · exact frame_enterFault (by simp [writtenParts]) s _ _ _ _
  | ldVxK x =>
    simp only [exec, execLdVxK] at h
    split at h <;> cases h
    · exact (frame_writeV (by simp [writtenRegs]) s _).trans (frame_setKeypad (by simp [writtenParts]) _ _)
    · exact frame_setPc s _
  | ldDtVx x => cases h; exact frame_setDt (by simp [writtenParts]) s _
  | ldStVx x => cases h; exact frame_setSt (by simp [writtenParts]) s _
  | ldB x => exact frame_withRange (frame_writeBytes s (bcdDigits (s.readV x)) fun a ha => ha) (by simp [writtenParts]) h
  | ldMemVx x =>
    have hlength : (s.regsUpTo x).length = x.val + 1 := by simp [State.regsUpTo]
    refine frame_withRange ?_ (by simp [writtenParts]) h
    refine (frame_writeBytes s _ fun a ha => ?_).trans (frame_setI (by simp [writtenParts]) _ _)
    rw [hlength] at ha
    exact ha
  | ldVxMem x =>
    refine frame_withRange ?_ (by simp [writtenParts]) h
    exact (frame_loadRegs (by simp [writtenRegs]) s).trans (frame_setI (by simp [writtenParts]) _ _)

/-- Settles O36: the registers of the frame of every instruction are those of its row. -/
theorem registerWritesFollowTheTable : Obligations.RegisterWritesFollowTheTable :=
  fun i s t h r hchanged => by_contra fun hr => hchanged ((exec_frame i s t h).regs_same r hr)

/-! ## Which instructions write a part

Each is read off the rows of `writtenParts`, and the last off those of `writtenAddrs`. -/

section
variable {i : Instr}

theorem writes_index (h : .i ∈ writtenParts i) :
    (∃ nnn, i = .ldI nnn) ∨ ∃ x, i = .addI x ∨ i = .ldF x ∨ i = .ldMemVx x ∨ i = .ldVxMem x := by
  cases i <;> simp_all [writtenParts]

theorem writes_stack (h : .stack ∈ writtenParts i) : i = .ret ∨ ∃ nnn, i = .call nnn := by
  cases i <;> simp_all [writtenParts]

theorem writes_disp (h : .disp ∈ writtenParts i) : i = .cls ∨ ∃ x y n, i = .drw x y n := by
  cases i <;> simp_all [writtenParts]

theorem writes_dt (h : .dt ∈ writtenParts i) : ∃ x, i = .ldDtVx x := by
  cases i <;> simp_all [writtenParts]

theorem writes_st (h : .st ∈ writtenParts i) : ∃ x, i = .ldStVx x := by
  cases i <;> simp_all [writtenParts]

theorem writes_keypad (h : .keypad ∈ writtenParts i) : ∃ x, i = .ldVxK x := by
  cases i <;> simp_all [writtenParts]

theorem writes_draws (h : .draws ∈ writtenParts i) : ∃ x nn, i = .rnd x nn := by
  cases i <;> simp_all [writtenParts]

theorem writes_mem {s : State} (h : writtenAddrs s i ≠ []) : ∃ x, i = .ldB x ∨ i = .ldMemVx x := by
  cases i <;> simp_all [writtenAddrs]

end

/-- Settles O35: a part that has changed is in the instruction's frame, and the frame names it for the spec's writers
alone. -/
theorem onlyNamedInstructionsWrite : Obligations.OnlyNamedInstructionsWrite := by
  intro i s t h
  have hframe := exec_frame i s t h
  have heffect := exec_effect i s t h
  refine ⟨fun hi => writes_index (hframe.mem_of_changed hi), fun hk => writes_stack (hframe.mem_of_changed hk), ?mem,
    fun hd => writes_disp (hframe.mem_of_changed hd), fun hdt => writes_dt (hframe.mem_of_changed hdt),
    fun hst => writes_st (hframe.mem_of_changed hst), fun hk => writes_keypad (hframe.mem_of_changed hk),
    fun hd => writes_draws (hframe.mem_of_changed hd), heffect.params_eq, heffect.tick_eq, heffect.inputs_eq⟩
  case mem =>
    rintro ⟨a, ha⟩
    refine writes_mem (s := s) fun hnone => ha (hframe.mem_same a ?_)
    simp [hnone]

/-! ## The host register map (10_state.md R34) -/

/-- The low half of CONFIG: the eight mode bits below eight reserved zeros (R34). -/
theorem configRegister_modes (c : Config) :
    (configRegister c).getLsbD 0 = c.vfReset ∧ (configRegister c).getLsbD 1 = c.amigaBehaviour ∧
    (configRegister c).getLsbD 2 = c.modernShift ∧ (configRegister c).getLsbD 3 = c.modernStrLd ∧
    ((configRegister c).getLsbD 4 = true ↔ c.timerDecay = .mod60) ∧
    ((configRegister c).getLsbD 5 = true ↔ c.drawYWrap = .wrap32) ∧
    ((configRegister c).getLsbD 6 = true ↔ c.keySkipNot = .released) ∧
    ((configRegister c).getLsbD 7 = true ↔ c.keyIndex = .mask) := by
  simp only [configRegister, bit, BitVec.getLsbD_append]
  simp

/-- The reserved byte and IPT, the high half of CONFIG (R34). -/
theorem configRegister_reserved_ipt (c : Config) :
    (configRegister c).extractLsb' 8 8 = 0 ∧ (configRegister c).extractLsb' 16 16 = c.ipt := by
  unfold configRegister
  constructor
  · rw [extract_low _ _ 8 8 (by omega)]
    iterate 8 rw [extract_high _ _ _ _ (by omega)]
    rfl
  · rw [extract_high _ _ 16 16 (by omega), extract_all]

/-- The fields of FAULT (R34). -/
theorem faultRegister_fields (f : FaultRecord) :
    (faultRegister (some f)).extractLsb' 0 3 = f.cause.code ∧ (faultRegister (some f)).extractLsb' 3 13 = 0 ∧
    (faultRegister (some f)).extractLsb' 16 16 = f.pc := by
  unfold faultRegister
  refine ⟨?_, ?_, ?_⟩
  · rw [extract_low _ _ 0 3 (by omega), extract_low _ _ 0 3 (by omega), extract_all]
  · rw [extract_low _ _ 3 13 (by omega), extract_high _ _ 3 13 (by omega), extract_all]; rfl
  · rw [extract_high _ _ 16 16 (by omega), extract_all]

/-- The fields of FAULT_INFO (R34). -/
theorem faultInfoRegister_fields (f : FaultRecord) :
    (faultInfoRegister (some f)).extractLsb' 0 16 = f.opcode ∧ (faultInfoRegister (some f)).extractLsb' 16 16 = f.addr := by
  unfold faultInfoRegister
  constructor
  · rw [extract_low _ _ 0 16 (by omega), extract_all]
  · rw [extract_high _ _ 16 16 (by omega), extract_all]

/-- Settles O49: the three registers field by field, and a pending write is a step that drops it. -/
theorem hostRegisterMap : Obligations.HostRegisterMap := by
  intro s
  refine ⟨?config, fun hs => ?noFault, fun f hf => ?fault, fun offset value rest htick hinputs => ?write⟩
  case config =>
    obtain ⟨h0, h1, h2, h3, h4, h5, h6, h7⟩ := configRegister_modes s.config
    exact ⟨_, rfl, h0, h1, h2, h3, h4, h5, h6, h7, configRegister_reserved_ipt s.config⟩
  case noFault => simp [State.hostRead, hs, faultRegister, faultInfoRegister]
  case fault =>
    obtain ⟨hcode, hzero, hpc⟩ := faultRegister_fields f
    obtain ⟨hopcode, haddr⟩ := faultInfoRegister_fields f
    refine ⟨faultRegister (some f), faultInfoRegister (some f), by rw [← hf]; rfl, by rw [← hf]; rfl, ?_, hzero, hpc,
      hopcode, haddr⟩
    rw [hcode]
    cases f.cause <;> rfl
  case write => simp [step, State.sequence, State.hostMove, htick, hinputs]

end Sys2Proof.Machine

/-! ## Memory: stores, fetches and the addresses of an access (20_memory.md) -/

namespace Sys2Proof.Machine

/-- Settles O51: a slot keeps memory in its canonical form, and a reset builds memory anew from an image that fits. -/
theorem memInvIsKept : Obligations.MemInvIsKept := fun _ _ hinv hstep => step_memInv hinv hstep

/-! ### The lowest bad address (R60) -/

/-- The range check answers the one bad address of the access that has no bad address below it. -/
theorem firstOutOfRange_eq_some_of_lowest {base count a : Nat} (hbad : 0xFFF < a) (hbase : base ≤ a)
    (hcount : a < base + count) (hlowest : ∀ b, base ≤ b → b < a → b ≤ 0xFFF) :
    firstOutOfRange base count = some a := by
  have hmax := hlowest (max base memSize)
  rw [firstOutOfRange_eq_some]
  simp only [memSize] at *
  omega

/-- An instruction that raises a fault takes it precisely: fault entry writes the FAULT registers and `pc` alone. -/
theorem takesFault_of_raise {i : Instr} {s : State} {c : Fault} {a : Word} (h : exec i s = raise i c a s) :
    TakesFault i s c a :=
  ⟨_, h, rfl, rfl, frame_enterFault (List.mem_singleton_self _) s _ _ _ _⟩

/-- A checked access with a bad address faults with the address its range check answers. -/
theorem takesFault_of_outOfRange {i : Instr} {count a : Nat} {s e : State} (hexec : exec i s = withRange i count s e)
    (ha : firstOutOfRange s.i.toNat count = some a) : TakesFault i s .addressOutOfRange (BitVec.ofNat 16 a) :=
  takesFault_of_raise (by rw [hexec, withRange, ha])

/-- Settles O29: each of the four instructions is a checked access of `count` bytes. -/
theorem lowestBadAddressFaults : Obligations.LowestBadAddressFaults := by
  intro i count s haccess a hbad hbase hcount hlowest
  have ha := firstOutOfRange_eq_some_of_lowest hbad hbase hcount hlowest
  rcases haccess with ⟨⟨x, rfl⟩, rfl⟩ | ⟨x, rfl | rfl, rfl⟩ | ⟨x, y, rfl⟩ <;>
    exact takesFault_of_outOfRange rfl ha

/-! ### Fetch after a store (R64) -/

@[simp] theorem hiByte_wordOfBytes (hi lo : Byte) : hiByte (wordOfBytes hi lo) = hi := by
  unfold hiByte wordOfBytes
  rw [extract_high hi lo 8 8 (by omega), extract_all]

@[simp] theorem loByte_wordOfBytes (hi lo : Byte) : loByte (wordOfBytes hi lo) = lo := by
  unfold loByte wordOfBytes
  rw [extract_low hi lo 0 8 (by omega), extract_all]

/-- A fetched word is made of the two bytes at `pc` (R91). -/
theorem bytes_of_fetch {u : State} {w : Word} (h : u.fetch = .ok w) :
    hiByte w = u.mem.read u.pc.toNat ∧ loByte w = u.mem.read (u.pc.toNat + 1) := by
  rcases u.fetch_cases with ⟨_, hok⟩ | ⟨_, herr⟩
  · rw [hok] at h; cases h; simp
  · rw [herr] at h; cases h

/-- A fetch sees each byte of a store through `I` that memory still holds, at whichever end of the word it stands. -/
theorem fetch_sees_store {s u : State} {w : Word} {bs : List Byte} {k : Nat} (hwf : s.mem.wf = true)
    (hrange : s.i.toNat + bs.length ≤ memSize)
    (hkept : ∀ a ∈ s.indexAddrs bs.length, u.mem.read a = (s.mem.writeBytes (s.indexAddr 0) bs).read a)
    (hfetch : u.fetch = .ok w) (hk : k < bs.length) :
    (u.pc.toNat = s.i.toNat + k → hiByte w = bs[k]) ∧ (u.pc.toNat + 1 = s.i.toNat + k → loByte w = bs[k]) := by
  have hbyte : u.mem.read (s.i.toNat + k) = bs[k] := by
    rw [hkept (s.i.toNat + k) (List.mem_map_of_mem (List.mem_range.2 hk))]
    exact Memory.read_writeBytes hwf _ bs hrange k hk
  obtain ⟨hhi, hlo⟩ := bytes_of_fetch hfetch
  exact ⟨fun hpc => by rw [hhi, hpc, hbyte], fun hpc => by rw [hlo, hpc, hbyte]⟩

@[simp] theorem bcdDigits_length (b : Byte) : (bcdDigits b).length = 3 := rfl

/-- The digits of R163 by position. -/
theorem bcdDigits_toNat (b : Byte) {k : Nat} (hk : k < (bcdDigits b).length) :
    ((bcdDigits b)[k]).toNat = b.toNat / 10 ^ (2 - k) % 10 := by
  have hb := b.isLt
  rw [bcdDigits_length] at hk
  interval_cases k <;> simp [bcdDigits] <;> omega

@[simp] theorem State.regsUpTo_length (s : State) (x : Reg) : (s.regsUpTo x).length = x.val + 1 := by
  simp [State.regsUpTo]

theorem State.regsUpTo_getElem (s : State) {x k : Reg} (hk : k.val < (s.regsUpTo x).length) :
    (s.regsUpTo x)[k.val] = s.readV k := by
  simp [State.regsUpTo, State.readV]

/-- Settles O30: both instructions store a list of bytes through `I`, the digits of V[x] or the registers up to it. -/
theorem fetchSeesStores : Obligations.FetchSeesStores := by
  intro x s hwf
  refine ⟨fun hrange => ?ldB, fun hrange => ?ldMemVx⟩
  case ldB =>
    refine ⟨_, withRange_ok (.inr hrange), fun u w k hk hkept hfetch => ?_⟩
    obtain ⟨hhi, hlo⟩ := fetch_sees_store (bs := bcdDigits (s.readV x)) hwf hrange hkept hfetch hk
    have hdigit := bcdDigits_toNat (s.readV x) hk
    exact ⟨fun hpc => (congrArg BitVec.toNat (hhi hpc)).trans hdigit,
      fun hpc => (congrArg BitVec.toNat (hlo hpc)).trans hdigit⟩
  case ldMemVx =>
    refine ⟨_, withRange_ok (.inr hrange), fun u w k hk hkept hfetch => ?_⟩
    have hlength := s.regsUpTo_length x
    have hindex : k.val < (s.regsUpTo x).length := hlength ▸ Nat.lt_succ_of_le hk
    rw [← hlength] at hkept
    obtain ⟨hhi, hlo⟩ := fetch_sees_store (bs := s.regsUpTo x) hwf (hlength ▸ hrange) hkept hfetch hindex
    have hreg := s.regsUpTo_getElem hindex
    exact ⟨fun hpc => (hhi hpc).trans hreg, fun hpc => (hlo hpc).trans hreg⟩

/-! ### Memory after construction (R68, R271, R272) -/

/-- Beyond the font an unlisted address reads as zero (R53). -/
theorem Memory.unlisted_eq_zero {a : Nat} (h : 80 ≤ a) : Memory.unlisted a = 0 := by
  simp [Memory.unlisted, h]

theorem font_fits (p : Params) : fontBase + p.font.toList.length ≤ memSize := by
  simp [fontBase, memSize]

/-- The font stands at 0x000, below the image (R55, R271). -/
theorem read_initMemory_font (p : Params) {a : Nat} (h : a < 80) : (initMemory p).read a = p.font[a] := by
  unfold initMemory
  rw [Memory.read_writeBytes_ne _ _ _ _ (.inl (by simp only [programBase]; omega))]
  have hfont := Memory.read_writeBytes (m := []) rfl fontBase p.font.toList (font_fits p) a (by simpa using h)
  simpa [fontBase] using hfont

/-- The image stands at 0x200 (R68, R271). -/
theorem read_initMemory_image (p : Params) (hfits : p.image.length ≤ maxImage) {a : Nat} (hlo : programBase ≤ a)
    (hhi : a < programBase + p.image.length) : (initMemory p).read a = p.image[a - programBase]'(by omega) := by
  have hfont : (Memory.writeBytes [] fontBase p.font.toList).wf = true :=
    Memory.wf_writeBytes rfl _ _ (font_fits p)
  have hroom : programBase + p.image.length ≤ memSize := by
    simp only [programBase, maxImage, memSize] at *; omega
  obtain ⟨k, rfl⟩ := Nat.exists_eq_add_of_le hlo
  simpa [initMemory] using Memory.read_writeBytes hfont programBase p.image hroom k (by omega)

/-- Every byte outside the font and the image is zero (R271). -/
theorem read_initMemory_zero (p : Params) {a : Nat} (hfont : 80 ≤ a)
    (himage : a < programBase ∨ programBase + p.image.length ≤ a) : (initMemory p).read a = 0 := by
  unfold initMemory
  have hbeyond : fontBase + p.font.toList.length ≤ a := by simpa [fontBase] using hfont
  rw [Memory.read_writeBytes_ne _ _ _ _ himage, Memory.read_writeBytes_ne _ _ _ _ (.inr hbeyond)]
  exact Memory.unlisted_eq_zero hfont

/-- Construction refuses an image that does not fit (R68). -/
theorem construct_refuses {p : Params} (h : maxImage < p.image.length) : construct p = .refused .imageTooLong :=
  if_neg (Nat.not_le.2 h)

theorem construct_accepts {p : Params} (h : p.image.length ≤ maxImage) : construct p = .next (State.init p) :=
  if_pos h

/-- Settles O46: `init` lays memory out region by region, and gives every other element its value at `State.reset`. -/
theorem constructionGivesInitialState : Obligations.ConstructionGivesInitialState := by
  intro p
  refine ⟨fun hfits => ⟨State.init p, construct_accepts hfits, fun a _ => ?mem, ?readV, rfl, rfl, rfl, ?entries, ?disp,
    rfl, rfl, ?ages, rfl, rfl, rfl, rfl, rfl, rfl⟩, construct_refuses⟩
  case mem =>
    split
    · next hfont => exact read_initMemory_font p hfont
    · next hfont =>
      split
      · next himage => exact read_initMemory_image p hfits himage.1 himage.2
      · next himage => exact read_initMemory_zero p (by omega) (by simp only [programBase]; omega)
  case readV => exact fun r => by simp [State.readV, State.init, State.reset]
  case entries => exact fun k => by simp [State.init, State.reset]
  case disp => exact Display.clear_cell
  case ages => exact fun k => by simp [State.init, State.reset]

end Sys2Proof.Machine

/-! ## Encoding and decoding are inverse (30_encoding.md R74, R75, R79) -/

namespace Sys2Proof

/-- Settles O1: the decoder reads every form of word back. -/
theorem encodeThenDecode : Obligations.EncodeThenDecode := fun _ h => decode_encode h

/-- A word of the form `cNNN` is put together from its fields (R71). -/
theorem encNNN_eq_iff {c : BitVec 4} {nnn : Addr12} {w : Word} :
    encNNN c nnn = w ↔ fieldC w = c ∧ fieldNNN w = nnn := by
  refine ⟨by rintro rfl; simp, ?_⟩
  rintro ⟨rfl, rfl⟩
  unfold encNNN fieldC fieldNNN
  rw [BitVec.extractLsb'_append_extractLsb'_eq_extractLsb' (by rfl), extract_all]

/-- A word of the form `cXNN` is put together from its fields (R71). -/
theorem encXNN_eq_iff {c : BitVec 4} {x : Reg} {nn : Byte} {w : Word} :
    encXNN c x nn = w ↔ fieldC w = c ∧ fieldX w = x ∧ fieldNN w = nn := by
  refine ⟨by rintro rfl; simp, ?_⟩
  rintro ⟨rfl, rfl, rfl⟩
  have hx : regBits (fieldX w) = w.extractLsb' 8 4 := rfl
  unfold encXNN fieldC fieldNN
  rw [hx, BitVec.extractLsb'_append_extractLsb'_eq_extractLsb' (by rfl),
    BitVec.extractLsb'_append_extractLsb'_eq_extractLsb' (by rfl), extract_all]

/-- A word of the form `cXYN` is put together from its fields (R71). -/
theorem encXYN_eq_iff {c : BitVec 4} {x y : Reg} {n : BitVec 4} {w : Word} :
    encXYN c x y n = w ↔ fieldC w = c ∧ fieldX w = x ∧ fieldY w = y ∧ fieldN w = n := by
  refine ⟨by rintro rfl; simp, ?_⟩
  rintro ⟨rfl, rfl, rfl, rfl⟩
  have hx : regBits (fieldX w) = w.extractLsb' 8 4 := rfl
  have hy : regBits (fieldY w) = w.extractLsb' 4 4 := rfl
  unfold encXYN fieldC fieldN
  rw [hx, hy, BitVec.extractLsb'_append_extractLsb'_eq_extractLsb' (by rfl),
    BitVec.extractLsb'_append_extractLsb'_eq_extractLsb' (by rfl),
    BitVec.extractLsb'_append_extractLsb'_eq_extractLsb' (by rfl), extract_all]

/-- An answer to a word keeps all of its bits: if it is an instruction, then one that encodes to the word (R79). -/
def KeepsBits (w : Word) (answer : Except Rejection Instr) : Prop := ∀ i, answer = .ok i → encode i = w

@[simp] theorem keepsBits_ok {w : Word} {i : Instr} : KeepsBits w (.ok i) ↔ encode i = w := by simp [KeepsBits]

@[simp] theorem keepsBits_error {w : Word} {r : Rejection} : KeepsBits w (.error r) := by simp [KeepsBits]

theorem decodeAlu_keepsBits {w : Word} (hc : fieldC w = 0x8#4) : KeepsBits w (decodeAlu w) := by
  unfold decodeAlu
  split <;> simp [encode, encXYN_eq_iff, *]

theorem decodeKey_keepsBits {w : Word} (hc : fieldC w = 0xE#4) : KeepsBits w (decodeKey w) := by
  unfold decodeKey
  split <;> simp [encode, encXNN_eq_iff, *]

theorem decodeMisc_keepsBits {w : Word} (hc : fieldC w = 0xF#4) : KeepsBits w (decodeMisc w) := by
  unfold decodeMisc
  split <;> simp [encode, encXNN_eq_iff, *]

theorem decode_keepsBits (w : Word) : KeepsBits w (decode w) := by
  unfold decode
  split
  case h_1 => split_ifs with hcls hret <;> simp [encode, *]
  case h_6 | h_10 => split_ifs <;> simp [encode, encXYN_eq_iff, *]
  case h_9 hc => exact decodeAlu_keepsBits hc
  case h_15 hc => exact decodeKey_keepsBits hc
  case h_16 => exact decodeMisc_keepsBits (by generalize fieldC w = c at *; decide +revert)
  case h_2 | h_3 | h_11 | h_12 => simp [encode, encNNN_eq_iff, *]
  case h_4 | h_5 | h_7 | h_8 | h_13 => simp [encode, encXNN_eq_iff, *]
  case h_14 => simp [encode, encXYN_eq_iff, *]

/-- Settles O2: every form of word is put together again from the fields the decoder reads. -/
theorem decodeThenEncode : Obligations.DecodeThenEncode :=
  fun w _ h => ⟨decode_keepsBits w _ h, wellFormed_of_decode h⟩

/-! ## The rows of the opcode map (30_encoding.md R75 to R77) -/

open Laws.OpcodeRow in
/-- The word of every instruction lies in the instruction's own row (R75). -/
theorem encode_in_own_row : ∀ i : Instr, Statement i
  | .cls => cls
  | .ret => ret
  | .jp nnn => jp nnn
  | .call nnn => call nnn
  | .seImm x nn => seImm x nn
  | .sneImm x nn => sneImm x nn
  | .seReg x y => seReg x y
  | .ldImm x nn => ldImm x nn
  | .addImm x nn => addImm x nn
  | .ldReg x y => ldReg x y
  | .orReg x y => orReg x y
  | .andReg x y => andReg x y
  | .xorReg x y => xorReg x y
  | .addReg x y => addReg x y
  | .sub x y => sub x y
  | .shr x y => shr x y
  | .subn x y => subn x y
  | .shl x y => shl x y
  | .sneReg x y => sneReg x y
  | .ldI nnn => ldI nnn
  | .jpV0 nnn => jpV0 nnn
  | .rnd x nn => rnd x nn
  | .drw x y n => drw x y n
  | .skp x => skp x
  | .sknp x => sknp x
  | .ldVxDt x => ldVxDt x
  | .ldVxK x => ldVxK x
  | .ldDtVx x => ldDtVx x
  | .ldStVx x => ldStVx x
  | .addI x => addI x
  | .ldF x => ldF x
  | .ldB x => ldB x
  | .ldMemVx x => ldMemVx x
  | .ldVxMem x => ldVxMem x

/-- The bits by which the decoder selects the instruction of a word whose top nibble is `c` (R74). -/
def selectorMask (c : BitVec 4) : Word :=
  match c with
  | 0x0#4 => 0xFFFF
  | 0x5#4 | 0x8#4 | 0x9#4 => 0xF00F
  | 0xE#4 | 0xF#4 => 0xF0FF
  | _ => 0xF000

/-- The row a decoder's answer belongs to. -/
def rowOf : Except Rejection Instr → Option OpcodeRow
  | .ok i => opcodeRows[i.rowIndex]?
  | .error _ => none

/-- Words that agree where a mask is all ones have the same field there. -/
theorem extract_eq_of_agree {v w m : Word} (h : w &&& m = v &&& m) {lo len : Nat}
    (hm : m.extractLsb' lo len = BitVec.allOnes len) : w.extractLsb' lo len = v.extractLsb' lo len := by
  simpa [BitVec.extractLsb'_and, hm] using congrArg (BitVec.extractLsb' lo len) h

/-- The decoder always looks at the top nibble. -/
theorem selectorMask_top (c : BitVec 4) : (selectorMask c).extractLsb' 12 4 = BitVec.allOnes 4 := by decide +revert

theorem rowOf_decodeAlu_congr {v w : Word} (hn : fieldN w = fieldN v) : rowOf (decodeAlu w) = rowOf (decodeAlu v) := by
  unfold decodeAlu
  rw [hn]
  split <;> rfl

theorem rowOf_decodeKey_congr {v w : Word} (hnn : fieldNN w = fieldNN v) :
    rowOf (decodeKey w) = rowOf (decodeKey v) := by
  unfold decodeKey
  rw [hnn]
  split <;> rfl

theorem rowOf_decodeMisc_congr {v w : Word} (hnn : fieldNN w = fieldNN v) :
    rowOf (decodeMisc w) = rowOf (decodeMisc v) := by
  unfold decodeMisc
  rw [hnn]
  split <;> rfl

/-- The decoder selects the row by the bits of `selectorMask` alone (R74). -/
theorem rowOf_decode_congr {v w : Word} (h : w &&& selectorMask (fieldC v) = v &&& selectorMask (fieldC v)) :
    rowOf (decode w) = rowOf (decode v) := by
  have hc : fieldC w = fieldC v := extract_eq_of_agree h (selectorMask_top _)
  unfold decode
  rw [hc]
  split
  case h_1 hv =>
    rw [hv] at h
    have hw : w = v := by simpa using extract_eq_of_agree (lo := 0) (len := 16) h rfl
    rw [hw]
  case h_6 hv | h_10 hv =>
    rw [hv] at h
    have hn : fieldN w = fieldN v := extract_eq_of_agree h rfl
    rw [hn]
    split_ifs <;> rfl
  case h_9 hv =>
    rw [hv] at h
    exact rowOf_decodeAlu_congr (extract_eq_of_agree h rfl)
  case h_15 hv =>
    rw [hv] at h
    exact rowOf_decodeKey_congr (extract_eq_of_agree h rfl)
  case h_16 =>
    have hv : fieldC v = 0xF#4 := by clear h hc; generalize fieldC v = c at *; decide +revert
    rw [hv] at h
    exact rowOf_decodeMisc_congr (extract_eq_of_agree h rfl)
  all_goals rfl

/-- Each row fixes the bits the decoder selects by, and its fixed bits are themselves a word of that row. -/
theorem opcodeRows_select : ∀ r ∈ opcodeRows,
    r.mask = selectorMask (fieldC r.value) ∧ r.value &&& r.mask = r.value ∧ rowOf (decode r.value) = some r := by
  decide

/-- A word in a row decodes to an instruction of that row (R74, R75). -/
theorem rowOf_decode_of_accepts {r : OpcodeRow} {w : Word} (hr : r ∈ opcodeRows) (h : r.accepts w = true) :
    rowOf (decode w) = some r := by
  obtain ⟨hmask, hvalue, hrow⟩ := opcodeRows_select r hr
  have hw : w &&& r.mask = r.value := eq_of_beq h
  have hagree : w &&& selectorMask (fieldC r.value) = r.value &&& selectorMask (fieldC r.value) := by
    rw [← hmask, hw, hvalue]
  rw [rowOf_decode_congr hagree, hrow]

/-- Settles O4: two rows that match one word are both the row of what the word decodes to. -/
theorem opcodeRowsAreDisjoint : Obligations.OpcodeRowsAreDisjoint := by
  refine ⟨rfl, fun r hr r' hr' w h h' => ?_⟩
  have hsome : some r = some r' := (rowOf_decode_of_accepts hr h).symm.trans (rowOf_decode_of_accepts hr' h')
  exact Option.some.inj hsome

/-- An accepted word lies in the row of its instruction. -/
theorem exists_row_of_decode {w : Word} {i : Instr} (h : decode w = .ok i) :
    ∃ r, opcodeRows[i.rowIndex]? = some r ∧ r.accepts w = true := by
  have hrow := encode_in_own_row i
  rwa [Laws.OpcodeRow.Statement, decode_keepsBits w i h] at hrow

/-- Settles O3: an accepted word lies in the row of its instruction, and a word in a row decodes to an
instruction. -/
theorem rejectsExactlyTheUnlistedWords : Obligations.RejectsExactlyTheUnlistedWords := by
  intro w
  refine ⟨fun hunlisted => ?rejected, fun ⟨r, hr, haccepts⟩ => ?accepted⟩
  case rejected =>
    cases hw : decode w with
    | error e => rw [decode_error hw]
    | ok i =>
      obtain ⟨r, hrow, haccepts⟩ := exists_row_of_decode hw
      have hnot := hunlisted r (List.mem_of_getElem? hrow)
      rw [haccepts] at hnot; cases hnot
  case accepted =>
    have hrow := rowOf_decode_of_accepts hr haccepts
    cases hw : decode w with
    | error e => rw [hw] at hrow; cases hrow
    | ok i => exact ⟨i, rfl, exists_row_of_decode hw⟩

/-- Settles O5: the decoder evaluated at each of the nine words. -/
theorem writtenOutWordsDecode : Obligations.WrittenOutWordsDecode := by
  unfold Obligations.WrittenOutWordsDecode
  decide

end Sys2Proof

/-! ## The slot and the tick (40_pipeline.md) -/

namespace Sys2Proof.Machine

/-! ### Running and halted cores (R35) -/

theorem State.halted_of_fault {s : State} {f : FaultRecord} (h : s.fault = some f) : s.halted = true := by
  simp [State.halted, h]

theorem State.halted_eq_false {s : State} (h : s.fault = none) : s.halted = false := by
  simp [State.halted, h]

theorem frame_setTick {regs : List Reg} {addrs : List Nat} {parts : List Part} (hp : .tick ∈ parts) (s : State)
    (p : TickPhase) : Frame regs addrs parts s (s.setTick p) where
  regs_same _ _ := rfl
  mem_same _ _ := rfl
  parts_same p hn := by cases p with
    | tick => exact absurd hp hn
    | _ => rfl

theorem frame_setInputs {regs : List Reg} {addrs : List Nat} {parts : List Part} (hp : .inputs ∈ parts) (s : State)
    (l : List HostInput) : Frame regs addrs parts s (s.setInputs l) where
  regs_same _ _ := rfl
  mem_same _ _ := rfl
  parts_same p hn := by cases p with
    | inputs => exact absurd hp hn
    | _ => rfl

/-! ### The three ends of a slot: fetch, decode, execute (R91 to R95) -/

theorem State.fetch_of_low {s : State} (hpc : s.pc.toNat ≤ 0xFFE) :
    s.fetch = .ok (wordOfBytes (s.mem.read s.pc.toNat) (s.mem.read (s.pc.toNat + 1))) := by
  rcases s.fetch_cases with ⟨_, hok⟩ | ⟨hhigh, _⟩
  · exact hok
  · omega

theorem State.fetch_of_high {s : State} (hpc : 0xFFF ≤ s.pc.toNat) : s.fetch = .error (max s.pc.toNat memSize) := by
  rcases s.fetch_cases with ⟨hlow, _⟩ | ⟨_, herr⟩
  · omega
  · exact herr

/-- The lowest bad address of a fetch: `pc` itself where that is bad, and 0x1000 from 0xFFF (R92). -/
theorem lowest_bad_fetch_addr {w : Word} (h : 0xFFF ≤ w.toNat) :
    BitVec.ofNat 16 (max w.toNat memSize) = if 0xFFF < w.toNat then w else w + 1 := by
  apply BitVec.eq_of_toNat_eq
  simp only [memSize]
  split
  · next hbad =>
    rw [BitVec.toNat_ofNat, Nat.max_eq_left hbad, Nat.mod_eq_of_lt w.isLt]
  · next hgood =>
    have hw : w = 0xFFF := BitVec.eq_of_toNat_eq (by simp; omega)
    rw [hw]
    rfl

section
variable {s t : State}

theorem stepInstr_fetch_fault {a : Nat} (hs : s.fault = none) (hfetch : s.fetch = .error a) :
    stepInstr s = .next (s.enterFault .addressOutOfRange s.pc 0 (BitVec.ofNat 16 a)) := by
  simp [stepInstr, State.halted_eq_false hs, hfetch]

theorem stepInstr_decode_fault {w : Word} {r : Rejection} (hs : s.fault = none) (hfetch : s.fetch = .ok w)
    (hdecode : decode w = .error r) : stepInstr s = .next (s.enterFault .unknownOpcode s.pc w 0) := by
  simp [stepInstr, State.halted_eq_false hs, hfetch, hdecode]

theorem stepInstr_exec {w : Word} {i : Instr} (hs : s.fault = none) (hfetch : s.fetch = .ok w)
    (hdecode : decode w = .ok i) : stepInstr s = exec i s.advancePc := by
  simp [stepInstr, State.halted_eq_false hs, hfetch, hdecode]

/-- A checked access leaves the FAULT registers to its effect, or enters the fault at the instruction (R60). -/
theorem withRange_fault_or {i : Instr} {count : Nat} {u : State} (h : withRange i count s u = .next t)
    (heffect : u.fault = s.fault) :
    t.fault = s.fault ∨ ∃ c a, t = s.enterFault c (s.pc - 2) (encode i) a := by
  rcases withRange_inv _ _ _ _ _ h with ⟨_, rfl⟩ | ⟨a, _, rfl⟩
  · exact .inl heffect
  · exact .inr ⟨_, a, rfl⟩

/-- An instruction leaves the FAULT registers alone or does nothing but enter a fault (R14, R243): the eight whose frame
names the FAULT registers are taken one by one. -/
theorem exec_fault_or {i : Instr} (h : exec i s = .next t) :
    t.fault = s.fault ∨ ∃ c a, t = s.enterFault c (s.pc - 2) (encode i) a := by
  cases i with
  | ret =>
    rcases s.stack.pop_cases with ⟨_, k, hpop, _⟩ | ⟨_, hpop⟩ <;> simp only [exec, execRet, hpop] at h <;> cases h
    · exact .inl rfl
    · exact .inr ⟨_, _, rfl⟩
  | call nnn =>
    rcases s.stack.push_cases s.pc with ⟨_, k, hpush, _⟩ | ⟨_, hpush⟩ <;> simp only [exec, execCall, hpush] at h <;> cases h
    · exact .inl rfl
    · exact .inr ⟨_, _, rfl⟩
  | skp x | sknp x =>
    simp only [exec, execSkp, execSknp] at h
    split at h <;> cases h
    · exact .inl (State.skipIf_fault s _)
    · exact .inr ⟨_, _, rfl⟩
  | drw x y n | ldB x | ldMemVx x | ldVxMem x => exact withRange_fault_or h rfl
  | _ => exact .inl ((exec_frame _ s t h).parts_same .fault (by simp [writtenParts]))

/-- A slot that faults writes the FAULT registers alone, with its own address in FAULT.PC (R243, R244). -/
theorem stepInstr_fault_precise {f : FaultRecord} (hs : s.fault = none) (h : stepInstr s = .next t)
    (hf : t.fault = some f) : t = { s with fault := some f } ∧ f.pc = s.pc := by
  rcases stepInstr_effects hs h with ⟨g, _, hpc, rfl⟩ | ⟨i, _, _, hexec⟩
  · cases hf; exact ⟨rfl, hpc⟩
  · rcases exec_fault_or hexec with hsame | ⟨c, a, rfl⟩
    · rw [hsame, State.advancePc_fault, hs] at hf; cases hf
    · have hback : s.advancePc.pc - 2 = s.pc := BitVec.add_sub_cancel s.pc 2
      rw [hback] at hf ⊢
      cases hf
      exact ⟨rfl, rfl⟩

/-- A slot leaves the place in the tick as it is. -/
theorem stepInstr_tick (hs : s.fault = none) (h : stepInstr s = .next t) : t.tick = s.tick := by
  rcases stepInstr_effects hs h with ⟨_, _, _, rfl⟩ | ⟨i, _, _, hexec⟩
  · rfl
  · exact (exec_effect i _ t hexec).tick_eq

end

/-- Settles O7: fetch answers by the range of `pc`, and a bad fetch enters the fault. -/
theorem fetchRangeIsChecked : Obligations.FetchRangeIsChecked := by
  intro s hs
  refine ⟨fun hhigh => ?_, State.fetch_of_low⟩
  refine ⟨_, stepInstr_fetch_fault hs (State.fetch_of_high hhigh), ?_, rfl, frame_enterFault (by simp) s _ _ _ _⟩
  rw [State.enterFault_fault, lowest_bad_fetch_addr hhigh]

/-- Settles O8: the decoder rejects a word of no row, and a rejected word enters the fault. -/
theorem illegalWordsFault : Obligations.IllegalWordsFault := by
  intro s w hs hfetch hunlisted
  have hdecode := (rejectsExactlyTheUnlistedWords w).1 hunlisted
  exact ⟨_, stepInstr_decode_fault hs hfetch hdecode, rfl, rfl, frame_enterFault (by simp) s _ _ _ _⟩

/-! ### The halted core (R97, R245) -/

section
variable {s : State} {f : FaultRecord} (hf : s.fault = some f)
include hf

theorem stepInstr_of_halted : stepInstr s = .next s := by simp [stepInstr, State.halted_of_fault hf]

theorem stepTick_of_halted (events : List KeyEvent) : stepTick events s = .next s := by
  simp [stepTick, State.halted_of_fault hf]

theorem State.slotInTick_of_halted (n : Nat) : s.slotInTick n = .next (s.setTick .boundary) := by
  simp [State.slotInTick, State.halted_of_fault hf]

theorem State.beginTick_of_halted (events : List KeyEvent) : s.beginTick events = .next s := by
  simp [State.beginTick, State.halted_of_fault hf]

/-- A step of a halted core that is no reset changes the model's record of the tick or of the host's moves alone. -/
theorem step_of_halted (hreset : s.tick = .boundary → ∀ rest, s.inputs ≠ .reset :: rest) :
    ∃ t, step s = .next t ∧ t.pc = s.pc ∧ Frame [] [] [.tick, .inputs] s t := by
  rcases step_cases s with ⟨n, _, hstep⟩ | ⟨_, _, hstep⟩ | ⟨_, events, rest, _, hstep⟩ | ⟨htick, rest, hinputs, _⟩ |
    ⟨_, _, _, rest, _, hstep⟩
  · exact ⟨_, hstep.trans (State.slotInTick_of_halted hf n), rfl, frame_setTick (by simp) s _⟩
  · exact ⟨_, hstep.trans (State.beginTick_of_halted hf []), rfl, Frame.refl _ _ _ s⟩
  · have hbegin := State.beginTick_of_halted (s := s.setInputs rest) hf events
    exact ⟨_, hstep.trans hbegin, rfl, frame_setInputs (by simp) s _⟩
  · exact absurd hinputs (hreset htick rest)
  · exact ⟨_, hstep, rfl, frame_setInputs (by simp) s _⟩

end

/-- The host's reset of a state whose image fits is `init` of the parameters kept (R270). -/
theorem State.restart_of_fits {s : State} (h : s.params.image.length ≤ maxImage) :
    s.restart = .next (((State.init s.params).setInputs s.inputs).setDraws s.draws) := by
  rcases s.restart_cases with ⟨_, hr⟩ | ⟨hlong, _⟩
  · exact hr
  · omega

theorem step_of_reset {s : State} {rest : List HostInput} (htick : s.tick = .boundary)
    (hinputs : s.inputs = .reset :: rest) : step s = (s.setInputs rest).restart := by
  simp [step, State.sequence, State.hostMove, htick, hinputs]

/-- Settles O10: a halted core answers itself wherever R97 or R245 checks `halted`, and a reset clears FAULT. -/
theorem haltedCoreIsFrozen : Obligations.HaltedCoreIsFrozen := by
  intro s f hf
  refine ⟨by simp [State.tickResult, hf], stepInstr_of_halted hf, stepTick_of_halted hf, step_of_halted hf,
    fun htick hfits rest hinputs => ?_⟩
  exact ⟨_, (step_of_reset htick hinputs).trans (State.restart_of_fits (s := s.setInputs rest) hfits), rfl, rfl⟩

/-- Settles O11: a slot and a tick always answer a next state, and so does the reset of an image that fits. -/
theorem everyStepHasANextState : Obligations.EveryStepHasANextState := by
  intro s hfits
  rcases step_cases s with ⟨n, _, hstep⟩ | ⟨_, _, hstep⟩ | ⟨_, events, rest, _, hstep⟩ | ⟨_, rest, _, hstep⟩ |
    ⟨_, _, _, rest, _, hstep⟩ <;> rw [hstep]
  · exact s.slotInTick_next n
  · exact s.beginTick_next []
  · exact (s.setInputs rest).beginTick_next events
  · exact ⟨_, State.restart_of_fits hfits⟩
  · exact ⟨_, rfl⟩

/-! ### The place in the tick (R99, R100, R106) -/

/-- Settles O55: a slot leaves the tick at the boundary or with one slot fewer, and a tick begins with IPT slots. -/
theorem tickInvIsKept : Obligations.TickInvIsKept := fun _ _ hinv hstep => step_tickInv hinv hstep

/-! ### The batch and the tick of the spec (R99, R100, R106) -/

/-- The state in which `step_tick` ends when its batch ends in `t`: phase 4 unless a slot faulted (R99, R106). -/
def State.afterBatch (t : State) : State := if t.halted then t else t.decayTimers

theorem State.afterBatch_of_fault {t : State} {f : FaultRecord} (h : t.fault = some f) : t.afterBatch = t :=
  if_pos (State.halted_of_fault h)

theorem State.afterBatch_of_running {t : State} (h : t.fault = none) : t.afterBatch = t.decayTimers :=
  if_neg (by simp [State.halted_eq_false h])

theorem stepTick_of_running {s t : State} {events : List KeyEvent} (hs : s.fault = none)
    (h : runBatch s.config.ipt.toNat (s.keypadPhase events) = .next t) : stepTick events s = .next t.afterBatch := by
  simp [stepTick, State.halted_eq_false hs, h, State.afterBatch]

theorem runBatch_succ_of_fault {s t : State} {f : FaultRecord} {n : Nat} (h : stepInstr s = .next t)
    (hf : t.fault = some f) : runBatch (n + 1) s = .next t := by
  simp [runBatch, h, State.halted_of_fault hf]

theorem runBatch_succ_of_running {s t : State} {n : Nat} (h : stepInstr s = .next t) (ht : t.fault = none) :
    runBatch (n + 1) s = runBatch n t := by
  simp [runBatch, h, State.halted_eq_false ht]

theorem RunsSlots.running {n : Nat} {a b : State} (ha : a.fault = none) (h : RunsSlots n a b) : b.fault = none := by
  induction n generalizing a with
  | zero => cases h; exact ha
  | succ n ih =>
    obtain ⟨m, _, hm, hrest⟩ := h
    exact ih hm hrest

/-- Everything a batch can do: all its slots run, or one of them faults after those before it have run. -/
theorem runBatch_cases (n : Nat) (s : State) (hs : s.fault = none) :
    ∃ t, runBatch n s = .next t ∧
      ((t.fault = none ∧ RunsSlots n s t) ∨
       ∃ k u f, k < n ∧ RunsSlots k s u ∧ stepInstr u = .next t ∧ t.fault = some f) := by
  induction n generalizing s with
  | zero => exact ⟨s, rfl, .inl ⟨hs, rfl⟩⟩
  | succ n ih =>
    obtain ⟨m, hm⟩ := stepInstr_next s
    cases hfault : m.fault with
    | some f =>
      exact ⟨m, runBatch_succ_of_fault hm hfault, .inr ⟨0, s, f, Nat.succ_pos n, rfl, hm, hfault⟩⟩
    | none =>
      obtain ⟨t, hbatch, ⟨ht, hruns⟩ | ⟨k, u, f, hk, hruns, hu, hf⟩⟩ := ih m hfault <;>
        refine ⟨t, (runBatch_succ_of_running hm hfault).trans hbatch, ?_⟩
      · exact .inl ⟨ht, m, hm, hfault, hruns⟩
      · exact .inr ⟨k + 1, u, f, Nat.succ_lt_succ hk, ⟨m, hm, hfault, hruns⟩, hu, hf⟩

/-- Settles O44: the batch runs all its slots or ends at a fault, which is precise. -/
theorem tickRunsBatchThenDecays : Obligations.TickRunsBatchThenDecays := by
  intro events s hs
  have hphase : (s.keypadPhase events).fault = none := hs
  obtain ⟨t, hbatch, ⟨ht, hruns⟩ | ⟨k, u, f, hk, hruns, hu, hf⟩⟩ := runBatch_cases s.config.ipt.toNat _ hphase <;>
    refine ⟨t.afterBatch, stepTick_of_running hs hbatch, ?_⟩
  · rw [State.afterBatch_of_running ht]
    exact .inl ⟨ht, t, hruns, rfl⟩
  · rw [State.afterBatch_of_fault hf]
    have hrun : u.fault = none := RunsSlots.running hphase hruns
    obtain ⟨hprecise, _⟩ := stepInstr_fault_precise hrun hu hf
    refine .inr ⟨k, u, f, hk, hruns, hu, hf, ?_⟩
    rw [hprecise, ← hrun]

/-! ### The tick taken apart into steps (Log 1, Log 2) -/

theorem step_of_batch {s : State} {n : Nat} (htick : s.tick = .batch n) : step s = s.slotInTick n := by
  simp [step, State.sequence, htick]

theorem State.setInputs_self {s : State} {l : List HostInput} (h : s.inputs = l) : s.setInputs l = s := by
  subst h; rfl

theorem State.setTick_self {s : State} {p : TickPhase} (h : s.tick = p) : s.setTick p = s := by
  subst h; rfl

/-- The first step of a tick, whether the host gives it or no move is pending (R104, Log 2). -/
theorem step_of_tick {s : State} {events : List KeyEvent} {rest : List HostInput} (htick : s.tick = .boundary)
    (hmove : s.inputs = .tick events :: rest ∨ (s.inputs = [] ∧ events = [] ∧ rest = [])) :
    step s = (s.setInputs rest).beginTick events := by
  rcases hmove with hinputs | ⟨hinputs, rfl, rfl⟩
  · simp [step, State.sequence, State.hostMove, htick, hinputs]
  · rw [State.setInputs_self hinputs]
    simp [step, State.sequence, State.hostMove, htick, hinputs]

theorem State.beginTick_of_running {s : State} (hs : s.fault = none) (events : List KeyEvent) :
    s.beginTick events = (s.keypadPhase events).slotInTick s.config.ipt.toNat := by
  simp [State.beginTick, State.halted_eq_false hs]

/-- A slot inside a tick of a running core, where the word at `pc` decodes. -/
theorem State.slotInTick_exec {s : State} {i : Instr} (hs : s.fault = none) (hpc : s.pc.toNat ≤ 0xFFE)
    (hdecode : decode (wordOfBytes (s.mem.read s.pc.toNat) (s.mem.read (s.pc.toNat + 1))) = .ok i) (n : Nat) :
    ∃ t, exec i (s.setPc (s.pc + 2)) = .next t ∧ s.slotInTick (n + 1) = .next (t.closeSlot n) := by
  obtain ⟨t, hslot, hclose⟩ := s.slotInTick_succ n hs
  rw [stepInstr_exec hs (State.fetch_of_low hpc) hdecode] at hslot
  exact ⟨t, hslot, hclose⟩

/-- Settles O6: a step inside a batch is a slot, and the first step of a tick is one after the keypad phases. -/
theorem stepRunsDecodedInstruction : Obligations.StepRunsDecodedInstruction := by
  intro s i left hs hpc hdecode
  refine ⟨fun htick => ?batch, fun events rest htick hipt hmove => ?boundary⟩
  case batch =>
    rw [step_of_batch htick]
    exact State.slotInTick_exec hs hpc hdecode left
  case boundary =>
    rw [step_of_tick htick hmove, State.beginTick_of_running (s := s.setInputs rest) hs, State.setInputs_config, hipt]
    exact State.slotInTick_exec (s := (s.setInputs rest).keypadPhase events) hs hpc hdecode left

theorem State.closeSlot_of_fault {s : State} {f : FaultRecord} (h : s.fault = some f) (left : Nat) :
    s.closeSlot left = s.setTick .boundary :=
  if_pos (State.halted_of_fault h)

theorem State.closeSlot_zero {s : State} (h : s.fault = none) : s.closeSlot 0 = s.endTick := by
  simp [State.closeSlot, State.halted_eq_false h]

theorem State.closeSlot_succ {s : State} (h : s.fault = none) (left : Nat) :
    s.closeSlot (left + 1) = s.setTick (.batch (left + 1)) := by
  simp [State.closeSlot, State.halted_eq_false h]

theorem State.slotInTick_zero {s : State} (h : s.fault = none) : s.slotInTick 0 = .next s.endTick := by
  simp [State.slotInTick, State.halted_eq_false h]

theorem State.closeSlot_setTick (s : State) (p : TickPhase) (left : Nat) :
    (s.setTick p).closeSlot left = s.closeSlot left := by
  simp only [State.closeSlot, State.setTick_halted]
  rfl

/-- A slot inside a tick sets the place in the tick and does not look at it. -/
theorem State.slotInTick_setTick (s : State) (p : TickPhase) (n : Nat) : (s.setTick p).slotInTick n = s.slotInTick n := by
  cases n with
  | zero => rfl
  | succ left =>
    obtain ⟨t, ht⟩ := stepInstr_next s
    have htick : stepInstr (s.setTick p) = .next (t.setTick p) := by rw [stepInstr_setTick, ht]; rfl
    simp only [State.slotInTick, State.setTick_halted, ht, htick, State.closeSlot_setTick]
    rfl

theorem core_run_succ {s t : State} (h : step s = .next t) (k : Nat) :
    Host.Core.run Sys2Proof.core (k + 1) s = Host.Core.run Sys2Proof.core k t := by
  have hcore : Sys2Proof.core.step s = .next t := h
  simp only [Host.Core.run, hcore]

/-- From a boundary state with `n` slots to run, the first step's slot and at most `n - 1` further steps reach the state in
which `step_tick` ends: each slot is one slot of the batch, and what a slot does after it is what the batch does. -/
theorem run_slots_of_tick (n : Nat) (s : State) (hs : s.fault = none) (htick : s.tick = .boundary) :
    ∃ k t v, k + 1 ≤ max 1 n ∧ runBatch n s = .next t ∧ s.slotInTick n = .next v ∧
      Host.Core.run Sys2Proof.core k v = .next t.afterBatch := by
  induction n generalizing s with
  | zero =>
    refine ⟨0, s, _, Nat.le_refl 1, rfl, State.slotInTick_zero hs, ?_⟩
    rw [State.afterBatch_of_running hs, ← State.setTick_self (s := s.decayTimers) htick]
    rfl
  | succ n ih =>
    obtain ⟨m, hm, hclose⟩ := s.slotInTick_succ n hs
    have hboundary : m.tick = .boundary := (stepInstr_tick hs hm).trans htick
    cases hfault : m.fault with
    | some f =>
      refine ⟨0, m, _, by omega, runBatch_succ_of_fault hm hfault, hclose, ?_⟩
      rw [State.closeSlot_of_fault hfault, State.setTick_self hboundary, State.afterBatch_of_fault hfault]
      rfl
    | none =>
      obtain ⟨k, t, v, hk, hbatch, hslot, hrun⟩ := ih m hfault hboundary
      have hbatch' : runBatch (n + 1) s = .next t := (runBatch_succ_of_running hm hfault).trans hbatch
      cases n with
      | zero =>
        rw [State.slotInTick_zero hfault] at hslot
        cases hslot
        exact ⟨k, t, _, by omega, hbatch', hclose, by rw [State.closeSlot_zero hfault]; exact hrun⟩
      | succ left =>
        refine ⟨k + 1, t, _, by omega, hbatch', hclose, ?_⟩
        have hstep : step (m.closeSlot (left + 1)) = .next v := by
          rw [State.closeSlot_succ hfault, step_of_batch (State.setTick_tick m _), State.slotInTick_setTick, hslot]
        exact (core_run_succ hstep k).trans hrun

/-- Settles O45: a halted core takes the tick in one step, and a running one takes its slots one by one. -/
theorem stepsMakeUpTheTick : Obligations.StepsMakeUpTheTick := by
  intro s events rest htick hmove
  have hstep := step_of_tick htick hmove
  cases hfault : s.fault with
  | some f =>
    have hhalted : (s.setInputs rest).fault = some f := hfault
    rw [State.beginTick_of_halted hhalted] at hstep
    exact ⟨1, _, Nat.le_refl 1, Nat.le_max_left _ _, stepTick_of_halted hhalted events, core_run_succ hstep 0⟩
  | none =>
    have hrunning : (s.setInputs rest).fault = none := hfault
    obtain ⟨k, t, v, hk, hbatch, hslot, hrun⟩ :=
      run_slots_of_tick s.config.ipt.toNat ((s.setInputs rest).keypadPhase events) hrunning htick
    have hfirst : step s = .next v := by
      rw [hstep, State.beginTick_of_running hrunning, State.setInputs_config, hslot]
    exact ⟨k + 1, _, Nat.le_add_left 1 k, hk, stepTick_of_running hrunning hbatch, (core_run_succ hfirst k).trans hrun⟩

/-! ### The outputs (R102, R226) -/

/-- Settles O50: the row and the column of bit `y*64 + x` are its quotient and remainder by 64. -/
theorem displayAndSoundOutputs : Obligations.DisplayAndSoundOutputs := by
  intro s
  refine ⟨fun row col h => ?display, by simp [State.soundActive]⟩
  have hrow : (row.val * 64 + col.val) / 64 = row.val := by omega
  have hcol : (row.val * 64 + col.val) % 64 = col.val := by omega
  simp [State.displayBit, hrow, hcol]

end Sys2Proof.Machine

/-! ## Control flow (41_control_flow.md) -/

namespace Sys2Proof.Machine

@[simp] theorem zextAddr_toNat (nnn : Addr12) : (zextAddr nnn).toNat = nnn.toNat := by
  have hlt := nnn.isLt
  simp only [zextAddr, BitVec.toNat_setWidth]
  omega

@[simp] theorem zextByte_toNat (b : Byte) : (zextByte b).toNat = b.toNat := by
  have hlt := b.isLt
  simp only [zextByte, BitVec.toNat_setWidth]
  omega

/-- The target of JP V0 is the exact sum: it is at most 0x10FE and does not wrap (R113). -/
theorem jpV0_target_toNat (nnn : Addr12) (b : Byte) : (zextAddr nnn + zextByte b).toNat = nnn.toNat + b.toNat := by
  have haddr := nnn.isLt
  have hoffset := b.isLt
  rw [BitVec.toNat_add, zextAddr_toNat, zextByte_toNat]
  omega

/-- Settles O12: each jump is one write of `pc`. -/
theorem jumpsSetPc : Obligations.JumpsSetPc := fun nnn s =>
  ⟨decode_encode (i := .jp nnn) rfl, ⟨_, rfl, zextAddr_toNat nnn, frame_setPc s _⟩,
    decode_encode (i := .jpV0 nnn) rfl, ⟨_, rfl, jpV0_target_toNat nnn (s.readV 0), frame_setPc s _⟩⟩

/-! ### Calls and returns (R110, R111) -/

theorem frame_setStack_setPc (s : State) (k : CallStack) (w : Word) :
    Frame [] [] [.stack] s ((s.setStack k).setPc w) :=
  (frame_setStack (by simp) s k).trans (frame_setPc _ w)

section
variable {s : State}

theorem exec_call_of_room (h : s.stack.sp.val < 16) (nnn : Addr12) :
    ∃ k : CallStack, exec (.call nnn) s = .next ((s.setStack k).setPc (zextAddr nnn)) ∧
      k.sp.val = s.stack.sp.val + 1 ∧ k.entries = s.stack.entries.set s.stack.sp.val s.pc h := by
  rcases s.stack.push_cases s.pc with ⟨_, k, hpush, hsp, hentries⟩ | ⟨hfull, _⟩
  · exact ⟨k, by simp only [exec, execCall, hpush], hsp, hentries⟩
  · simp [hfull] at h

theorem exec_call_of_full (h : s.stack.sp = 16) (nnn : Addr12) :
    exec (.call nnn) s = raise (.call nnn) .stackOverflow 0 s := by
  rcases s.stack.push_cases s.pc with ⟨hroom, _⟩ | ⟨_, hpush⟩
  · simp [h] at hroom
  · simp only [exec, execCall, hpush]

/-- With `j + 1` entries in use RET pops the entry of index `j`, the newest. -/
theorem exec_ret_of_entry {j : Fin 16} (h : s.stack.sp.val = j.val + 1) :
    ∃ k : CallStack, exec .ret s = .next ((s.setStack k).setPc s.stack.entries[j]) ∧
      k.sp.val = j.val ∧ k.entries = s.stack.entries := by
  rcases s.stack.pop_cases with ⟨_, k, hpop, hsp, hentries⟩ | ⟨hempty, _⟩
  · simp only [h, Nat.add_sub_cancel] at hpop hsp
    exact ⟨k, by simp only [exec, execRet, hpop, Fin.getElem_fin], hsp, hentries⟩
  · simp [hempty] at h

theorem exec_ret_of_empty (h : s.stack.sp = 0) : exec .ret s = raise .ret .stackUnderflow 0 s := by
  rcases s.stack.pop_cases with ⟨hentry, _⟩ | ⟨_, hpop⟩
  · simp [h] at hentry
  · simp only [exec, execRet, hpop]

end

/-- Settles O13: CALL pushes where there is room, and raises its fault where there is none. -/
theorem callPushesReturnAddress : Obligations.CallPushesReturnAddress := by
  intro nnn s
  refine ⟨decode_encode (i := .call nnn) rfl, fun hroom => ?room, fun hfull => ?full⟩
  case room =>
    obtain ⟨k, hexec, hsp, hentries⟩ := exec_call_of_room hroom nnn
    refine ⟨_, hexec, hsp, fun j => ?_, zextAddr_toNat nnn, frame_setStack_setPc s k _⟩
    simp [hentries, Vector.getElem_set, eq_comm]
  case full => exact takesFault_of_raise (exec_call_of_full hfull nnn)

/-- Settles O14: RET pops where there is an entry, and raises its fault where there is none. -/
theorem returnPopsIntoPc : Obligations.ReturnPopsIntoPc := by
  refine ⟨rfl, fun s => ⟨fun j hsp => ?entry, fun hempty => takesFault_of_raise (exec_ret_of_empty hempty)⟩⟩
  case entry =>
    obtain ⟨k, hexec, hdepth, hentries⟩ := exec_ret_of_entry hsp
    exact ⟨_, hexec, rfl, hdepth, fun j => by simp [hentries], frame_setStack_setPc s k _⟩

/-- Settles O15: the entry RET pops is the one CALL pushed, at the depth before the CALL. -/
theorem returnUndoesCall : Obligations.ReturnUndoesCall := by
  intro nnn s hroom
  obtain ⟨_, hcall, _⟩ := callPushesReturnAddress nnn s
  obtain ⟨t, hexec, hsp, hentries, _⟩ := hcall hroom
  refine ⟨t, hexec, fun u hu => ?_⟩
  obtain ⟨hret, _⟩ := returnPopsIntoPc.2 u
  obtain ⟨v, hexec', hpc, hsp', hentries', _⟩ := hret ⟨s.stack.sp.val, hroom⟩ (by rw [hu, hsp])
  refine ⟨v, hexec', ?_, Fin.ext hsp', fun k hk => ?_⟩
  · rw [hpc, hu, hentries, if_pos rfl]
  · rw [hentries', hu, hentries, if_neg hk.ne]

/-! ### Skips (R114 to R118) -/

section
variable {i : Instr} {s : State} {p : Prop} [Decidable p]

theorem yields_skip (h : exec i s = .next (s.skipIf (decide p))) :
    Yields i s fun t => t.pc = (if p then s.pc + 2 else s.pc) ∧ Frame [] [] [] s t :=
  ⟨_, h, by simp, frame_skipIf s _⟩

theorem yields_skip_unless (h : exec i s = .next (s.skipIf (decide ¬p))) :
    Yields i s fun t => t.pc = (if p then s.pc else s.pc + 2) ∧ Frame [] [] [] s t :=
  ⟨_, h, by simp, frame_skipIf s _⟩

end

/-- The forms 5XYN and 9XYN have no instruction but the one of low nibble 0 (R116, R117). -/
theorem decode_encXYN_rejects {c n : BitVec 4} (hc : c = 0x5#4 ∨ c = 0x9#4) (hn : n ≠ 0#4) (x y : Reg) :
    decode (encXYN c x y n) = .error (.unknownOpcode (encXYN c x y n)) := by
  rcases hc with rfl | rfl <;> simp [decode, hn]

/-- Settles O16: each of the four is a `skipIf` on its condition. -/
theorem skipsCompareAndSkip : Obligations.SkipsCompareAndSkip := fun x y nn _ =>
  ⟨decode_encode (i := .seImm x nn) rfl, yields_skip rfl,
    decode_encode (i := .sneImm x nn) rfl, yields_skip_unless rfl,
    decode_encode (i := .seReg x y) rfl, yields_skip rfl,
    decode_encode (i := .sneReg x y) rfl, yields_skip_unless rfl,
    fun _ hn => ⟨decode_encXYN_rejects (.inl rfl) hn x y, decode_encXYN_rejects (.inr rfl) hn x y⟩⟩

end Sys2Proof.Machine

/-! ## Registers and ALU (42_alu.md) -/

namespace Sys2Proof.Machine

/-! ### The bytes and the flags computed -/

theorem flagByte_toNat (b : Bool) : (flagByte b).toNat = b.toNat := by cases b <;> rfl

theorem flagByte_decide_toNat (p : Prop) [Decidable p] : (flagByte (decide p)).toNat = if p then 1 else 0 := by
  rw [flagByte_toNat, Bool.toNat, Bool.cond_decide]

theorem flagByte_getLsbD_toNat (b : Byte) (k : Nat) : (flagByte (b.getLsbD k)).toNat = b.toNat / 2 ^ k % 2 := by
  rw [flagByte_toNat, BitVec.getLsbD, Nat.toNat_testBit]

theorem flagByte_shiftedOutRight_toNat (b : Byte) : (flagByte (shiftedOutRight b)).toNat = b.toNat % 2 := by
  rw [shiftedOutRight, flagByte_getLsbD_toNat, pow_zero, Nat.div_one]

/-- Bit 7 is the top bit, so nothing of the quotient lies above it. -/
theorem flagByte_shiftedOutLeft_toNat (b : Byte) : (flagByte (shiftedOutLeft b)).toNat = b.toNat / 128 := by
  have hlt := b.isLt
  rw [shiftedOutLeft, flagByte_getLsbD_toNat]
  omega

theorem shiftRight_one_toNat (b : Byte) : (b >>> 1).toNat = b.toNat / 2 := by
  rw [BitVec.toNat_ushiftRight, Nat.shiftRight_one]

theorem shiftLeft_one_toNat (b : Byte) : (b <<< 1).toNat = b.toNat * 2 % 256 := by
  rw [BitVec.toNat_shiftLeft, Nat.shiftLeft_eq]

/-! ### What each shape of register write leaves -/

theorem yields_writeV {i : Instr} {s : State} {x : Reg} {b : Byte} (h : exec i s = .next (s.writeV x b)) :
    Yields i s fun t => t.readV x = b ∧ t.pc = s.pc ∧ Frame [x] [] [] s t :=
  ⟨_, h, State.readV_writeV_same s x b, rfl, frame_writeV (List.mem_singleton_self x) s b⟩

/-- The clear of VF comes after the write of V[x], so it wins when x = F. -/
theorem logicPost_writeV_clearFlag (x : Reg) (r : Byte) (s : State) :
    LogicPost x r s (s.writeV x r).clearFlagIfVfReset := by
  refine ⟨?result, fun hreset => ?flag, State.clearFlagIfVfReset_pc _, frame_logic x r s⟩
  case result => rw [State.readV_clearFlagIfVfReset, State.readV_writeV_same]; rfl
  case flag => rw [State.readV_clearFlagIfVfReset]; exact if_pos ⟨hreset, rfl⟩

theorem flagPost_writeV_writeFlag {b : Byte} {f : Bool} {result flag : Nat} (hb : b.toNat = result)
    (hf : (flagByte f).toNat = flag) (x : Reg) (s : State) :
    FlagPost x result flag s ((s.writeV x b).writeFlag f) := by
  refine ⟨fun hx => ?result, ?flag, rfl, frame_writeV_writeFlag x b f s⟩
  case result =>
    have hvf : x ≠ vf := hx
    rw [State.readV_writeFlag, if_neg hvf, State.readV_writeV_same, hb]
  case flag =>
    have hread : ((s.writeV x b).writeFlag f).readV vf = flagByte f := State.readV_writeV_same _ vf _
    exact (congrArg BitVec.toNat hread).trans hf

/-! ### The instructions -/

/-- Settles O18: each of the three writes V[x], then clears VF under VF_RESET. -/
theorem logicOpsAndVfReset : Obligations.LogicOpsAndVfReset := fun x y s =>
  ⟨decode_encode (i := .orReg x y) rfl, ⟨_, rfl, logicPost_writeV_clearFlag x _ s⟩,
    decode_encode (i := .andReg x y) rfl, ⟨_, rfl, logicPost_writeV_clearFlag x _ s⟩,
    decode_encode (i := .xorReg x y) rfl, ⟨_, rfl, logicPost_writeV_clearFlag x _ s⟩⟩

/-- Settles O19: the carry is that of the exact sum. -/
theorem addSetsCarry : Obligations.AddSetsCarry := fun x y s =>
  ⟨decode_encode (i := .addReg x y) rfl,
    ⟨_, rfl, flagPost_writeV_writeFlag (BitVec.toNat_ofNat _ 8) (flagByte_decide_toNat _) x s⟩⟩

/-- Settles O20: both subtract modulo 256 and compare the operands, in the one order or the other. -/
theorem subtractSetsNotBorrow : Obligations.SubtractSetsNotBorrow := fun x y s =>
  ⟨decode_encode (i := .sub x y) rfl,
    ⟨_, rfl, flagPost_writeV_writeFlag (BitVec.toNat_ofNat _ 8) (flagByte_decide_toNat _) x s⟩,
    decode_encode (i := .subn x y) rfl,
    ⟨_, rfl, flagPost_writeV_writeFlag (BitVec.toNat_ofNat _ 8) (flagByte_decide_toNat _) x s⟩⟩

/-- Settles O21: the bit shifted out is the remainder by 2, or the quotient by 128, of the source operand. -/
theorem shiftsShiftTheirSource : Obligations.ShiftsShiftTheirSource := by
  intro x y s src hsrc
  obtain rfl : src = (s.shiftSource x y).toNat := hsrc
  exact ⟨decode_encode (i := .shr x y) rfl,
    ⟨_, rfl, flagPost_writeV_writeFlag (shiftRight_one_toNat _) (flagByte_shiftedOutRight_toNat _) x s⟩,
    decode_encode (i := .shl x y) rfl,
    ⟨_, rfl, flagPost_writeV_writeFlag (shiftLeft_one_toNat _) (flagByte_shiftedOutLeft_toNat _) x s⟩⟩

/-- Settles O17: each of the three is one write of V[x]. -/
theorem loadsAndAddImmediate : Obligations.LoadsAndAddImmediate := by
  intro x y nn s
  refine ⟨decode_encode (i := .ldImm x nn) rfl, yields_writeV rfl, decode_encode (i := .addImm x nn) rfl, ?addImm,
    decode_encode (i := .ldReg x y) rfl, yields_writeV rfl⟩
  case addImm =>
    obtain ⟨t, hexec, hresult, hrest⟩ := yields_writeV (i := .addImm x nn) (s := s) rfl
    exact ⟨t, hexec, by rw [hresult, BitVec.toNat_ofNat], hrest⟩

/-- Settles O22: RND consumes its draw and then writes V[x], whatever the byte drawn. -/
theorem randomByteIsMasked : Obligations.RandomByteIsMasked := by
  intro x nn s
  refine ⟨decode_encode (i := .rnd x nn) rfl, _, rfl, State.readV_writeV_same _ x _, rfl, rfl, ?frame⟩
  exact (frame_consumeRandom (by simp) s).trans (frame_writeV (by simp) _ _)

end Sys2Proof.Machine

/-! ## Index register and memory (43_index_memory.md) -/

namespace Sys2Proof.Machine

/-! ### Writes of the index register (R160 to R162) -/

/-- The glyph address fits in 16 bits, so V[x] need not be masked (R162). -/
theorem glyphAddr_toNat (b : Byte) : (glyphAddr b).toNat = b.toNat * 5 := by
  have hlt := b.isLt
  simp only [glyphAddr, fontBase, BitVec.toNat_ofNat]
  omega

theorem yields_setI {i : Instr} {s : State} {w : Word} {n : Nat} (h : exec i s = .next (s.setI w)) (hw : w.toNat = n) :
    Yields i s fun t => t.i.toNat = n ∧ t.pc = s.pc ∧ Frame [] [] [.i] s t :=
  ⟨_, h, hw, rfl, frame_setI (List.mem_singleton_self _) s w⟩

/-- Settles O23: each of the two is one write of `I`. -/
theorem indexLoads : Obligations.IndexLoads := fun x nnn s =>
  ⟨decode_encode (i := .ldI nnn) rfl, yields_setI rfl (zextAddr_toNat nnn),
    decode_encode (i := .ldF x) rfl, yields_setI rfl (glyphAddr_toNat (s.readV x))⟩

theorem State.readV_writeFlag_vf (s : State) (b : Bool) : (s.writeFlag b).readV 15 = flagByte b :=
  s.readV_writeV_same vf _

/-- Settles O24: ADD I writes `I`, and under AMIGA_BEHAVIOUR the flag after it. -/
theorem addToIndex : Obligations.AddToIndex := by
  intro x s
  refine ⟨decode_encode (i := .addI x) rfl, _, rfl, ?index, fun hamiga => ?flag, ?pc, exec_frame (.addI x) s _ rfl⟩
  case index => rw [apply_ite State.i, State.writeFlag_i, ite_self, State.setI_i, BitVec.toNat_ofNat]
  case flag => rw [if_pos hamiga, State.readV_writeFlag_vf]; exact flagByte_decide_toNat _
  case pc => rw [apply_ite State.pc, State.writeFlag_pc, ite_self, State.setI_pc]

/-! ### Checked accesses through the index register (R60, R163 to R166) -/

section
variable {s : State}

/-- A checked access that leaves memory faults at `I` where `I` itself lies outside, and at 0x1000 otherwise (R242). -/
theorem takesFault_of_past_end {i : Instr} {count : Nat} {e : State} (hexec : exec i s = withRange i count s e)
    (hcount : 0 < count) (hbad : 4096 < s.i.toNat + count) :
    TakesFault i s .addressOutOfRange (if 0xFFF < s.i.toNat then s.i else 0x1000) := by
  have haddr : BitVec.ofNat 16 (max s.i.toNat memSize) = if 0xFFF < s.i.toNat then s.i else 0x1000 := by
    split
    · next hout => rw [max_eq_left (show memSize ≤ s.i.toNat from hout), BitVec.ofNat_toNat, BitVec.setWidth_eq]
    · next hin => rw [max_eq_right (show s.i.toNat ≤ memSize by simp only [memSize]; omega)]; rfl
  exact haddr ▸ takesFault_of_outOfRange hexec ((firstOutOfRange_eq_some _ _ _).2 ⟨hcount, hbad, rfl⟩)

/-- After a copy inside memory `I` does not wrap (R164, R165). -/
theorem State.indexAfterCopy_toNat {x : Reg} (h : s.i.toNat + x.val + 1 ≤ 4096) :
    (s.indexAfterCopy x).toNat = if s.config.modernStrLd then s.i.toNat else s.i.toNat + x.val + 1 := by
  rw [State.indexAfterCopy, apply_ite BitVec.toNat, BitVec.toNat_ofNat, Nat.mod_eq_of_lt (by omega)]

/-- The digits of V[x] are in memory once they are stored at `I`, the hundreds first (R163). -/
theorem read_writeBytes_bcdDigits (hwf : s.mem.wf = true) (hrange : s.i.toNat + 3 ≤ 4096) (b : Byte) {k : Nat}
    (hk : k < 3) :
    ((s.mem.writeBytes (s.indexAddr 0) (bcdDigits b)).read (s.i.toNat + k)).toNat = b.toNat / 10 ^ (2 - k) % 10 := by
  rw [← bcdDigits_toNat b hk]
  exact congrArg BitVec.toNat (Memory.read_writeBytes hwf _ (bcdDigits b) hrange k hk)

/-- The registers are in memory, one by one, once they are stored at `I` (R164). -/
theorem read_writeBytes_regsUpTo {x k : Reg} (hwf : s.mem.wf = true) (hrange : s.i.toNat + x.val + 1 ≤ 4096)
    (hk : k ≤ x) : (s.mem.writeBytes (s.indexAddr 0) (s.regsUpTo x)).read (s.i.toNat + k.val) = s.readV k := by
  have hlength := s.regsUpTo_length x
  have hindex : k.val < (s.regsUpTo x).length := hlength ▸ Nat.lt_succ_of_le hk
  rw [← s.regsUpTo_getElem hindex]
  exact Memory.read_writeBytes hwf _ _ (hlength ▸ hrange) k.val hindex

end

/-- Settles O25: LD B is a checked store of three digits. -/
theorem bcdStoresDigits : Obligations.BcdStoresDigits := by
  intro x s hwf
  refine ⟨decode_encode (i := .ldB x) rfl, fun hrange => ?_, takesFault_of_past_end rfl (by omega)⟩
  have hdigit {k : Nat} := read_writeBytes_bcdDigits hwf hrange (s.readV x) (k := k)
  have hbyte := (s.readV x).isLt
  exact ⟨_, withRange_ok (.inr hrange), (hdigit (k := 0) (by omega)).trans (by omega), hdigit (k := 1) (by omega),
    (hdigit (k := 2) (by omega)).trans (by omega), rfl, frame_writeBytes s _ fun _ ha => ha⟩

/-- Settles O26: LD [I] is a checked store of the registers, and then a write of `I`. -/
theorem storeRegisters : Obligations.StoreRegisters := by
  intro x s hwf
  refine ⟨decode_encode (i := .ldMemVx x) rfl, fun hrange => ?_, takesFault_of_past_end rfl (Nat.succ_pos _)⟩
  refine ⟨_, withRange_ok (.inr hrange), fun k hk => read_writeBytes_regsUpTo hwf hrange hk,
    State.indexAfterCopy_toNat hrange, rfl, ?frame⟩
  exact (frame_writeBytes s _ fun _ ha => s.regsUpTo_length x ▸ ha).trans (frame_setI (List.mem_singleton_self _) _ _)

/-- Settles O27: LD Vx, [I] is a checked load of the registers, and then a write of `I`. -/
theorem loadRegisters : Obligations.LoadRegisters := by
  intro x s
  refine ⟨decode_encode (i := .ldVxMem x) rfl, fun hrange => ?_, takesFault_of_past_end rfl (Nat.succ_pos _)⟩
  refine ⟨_, withRange_ok (.inr hrange), fun k hk => ?loaded, fun k hk => ?kept, State.indexAfterCopy_toNat hrange, rfl,
    ?frame⟩
  case loaded => rw [State.setI_readV, State.readV_loadRegs, if_pos hk, State.indexAddr]
  case kept => rw [State.setI_readV, State.readV_loadRegs, if_neg hk.not_ge]
  case frame =>
    exact (frame_loadRegs (fun _ _ => List.mem_finRange _) s).trans (frame_setI (List.mem_singleton_self _) _ _)

/-- Settles O28: the bytes LD Vx, [I] reads are the ones LD [I] stored. -/
theorem storeThenLoadRestores : Obligations.StoreThenLoadRestores := by
  intro x s hwf hrange
  obtain ⟨_, hstore, _⟩ := storeRegisters x s hwf
  obtain ⟨t, hexec, hstored, _⟩ := hstore hrange
  refine ⟨t, hexec, fun u hmem hindex => ?_⟩
  obtain ⟨_, hload, _⟩ := loadRegisters x u
  obtain ⟨v, hexec', hloaded, _⟩ := hload (by rwa [hindex])
  exact ⟨v, hexec', fun k hk => by rw [hloaded k hk, hmem, hindex, hstored k hk]⟩

end Sys2Proof.Machine

/-! ## Display and sprite renderer (44_display.md) -/

namespace Sys2Proof.Machine

/-! ### What the renderer does to the canvas (R181 to R185) -/

/-- The sprite bits `bits` have been brought to the canvas `c`, giving `c'`: each cell is XORed with its bit (R181), and
a hit is recorded exactly where a set bit meets a set cell of `c` (R185). -/
structure Canvas.Stamps (bits : Fin 32 → Fin 64 → Bool) (c c' : Canvas) : Prop where
  cell : ∀ row col, c'.disp.cell row col = (c.disp.cell row col ^^ bits row col)
  collide : c'.collide = true ↔
    c.collide = true ∨ ∃ row col, c.disp.cell row col = true ∧ bits row col = true

theorem Canvas.stamps_none (c : Canvas) : Canvas.Stamps (fun _ _ => false) c c := ⟨by simp, by simp⟩

theorem Canvas.Stamps.congr {a b : Fin 32 → Fin 64 → Bool} {c c' : Canvas} (h : c.Stamps a c')
    (hab : ∀ row col, a row col = true ↔ b row col = true) : c.Stamps b c' := by
  have hbits : a = b := funext₂ fun row col => Bool.eq_iff_iff.2 (hab row col)
  exact hbits ▸ h

/-- Bits brought one after the other, at cells apart, are brought together: the second finds its cells as the first
found them. -/
theorem Canvas.Stamps.trans {a b : Fin 32 → Fin 64 → Bool} {c c' c'' : Canvas} (hab : c.Stamps a c')
    (hbc : c'.Stamps b c'') (hapart : ∀ row col, a row col = true → b row col = false) :
    c.Stamps (fun row col => a row col || b row col) c'' where
  cell row col := by
    rw [hbc.cell, hab.cell]
    cases ha : a row col
    · simp
    · simp [hapart row col ha]
  collide := by
    have hfound : ∀ row col, b row col = true → c'.disp.cell row col = c.disp.cell row col := by
      intro row col hb
      have ha : a row col = false := Bool.eq_false_iff.2 fun ha => by simp [hapart row col ha] at hb
      rw [hab.cell, ha, Bool.xor_false]
    rw [hbc.collide, hab.collide, or_assoc]
    refine or_congr_right ⟨?_, ?_⟩
    · rintro (⟨row, col, hcell, hbit⟩ | ⟨row, col, hcell, hbit⟩)
      · exact ⟨row, col, hcell, by simp [hbit]⟩
      · exact ⟨row, col, hfound row col hbit ▸ hcell, by simp [hbit]⟩
    · rintro ⟨row, col, hcell, hbit⟩
      rcases (Bool.or_eq_true _ _).mp hbit with ha | hb
      · exact .inl ⟨row, col, hcell, ha⟩
      · exact .inr ⟨row, col, (hfound row col hb).trans hcell, hb⟩

/-- A loop over `n` pieces of a sprite that lie apart brings all of them. -/
theorem Canvas.stamps_foldl_range {f : Canvas → Nat → Canvas} {piece : Nat → Fin 32 → Fin 64 → Bool}
    (hf : ∀ c k, Canvas.Stamps (piece k) c (f c k))
    (hapart : ∀ j k row col, piece j row col = true → piece k row col = true → j = k) (n : Nat) (c : Canvas) :
    c.Stamps (fun row col => (List.range n).any fun k => piece k row col) ((List.range n).foldl f c) := by
  induction n with
  | zero => exact c.stamps_none
  | succ n ih =>
    simp only [List.range_succ, List.foldl_append, List.any_append, List.foldl_cons, List.foldl_nil, List.any_cons,
      List.any_nil, Bool.or_false]
    refine ih.trans (hf _ n) fun row col hearlier => Bool.eq_false_iff.2 fun hlast => ?_
    obtain ⟨k, hk, hbit⟩ := List.any_eq_true.1 hearlier
    have hkn : k < n := List.mem_range.1 hk
    exact hkn.ne (hapart k n row col hbit hlast)

/-- One bit of a sprite at its cell, none elsewhere; a place off the grid is no cell (R183). -/
theorem Canvas.plot_stamps (c : Canvas) (row col : Nat) (bit : Bool) :
    c.Stamps (fun r k => decide (r.val = row ∧ k.val = col) && bit) (c.plot row col bit) := by
  unfold Canvas.plot
  cases bit with
  | false => simpa using c.stamps_none
  | true =>
    split
    · next hin =>
      refine ⟨fun r k => ?_, ?_⟩
      · simp only [if_true, Display.cell_toggle, Fin.ext_iff, Bool.and_true]
        by_cases hat : r.val = row ∧ k.val = col
        · rw [if_pos hat, decide_eq_true hat, Bool.xor_true]
        · rw [if_neg hat, decide_eq_false hat, Bool.xor_false]
      · simp only [if_true, Bool.or_eq_true, Bool.and_true, decide_eq_true_eq]
        refine or_congr_right ⟨fun hit => ⟨_, _, hit, rfl, rfl⟩, ?_⟩
        rintro ⟨r, k, hit, rfl, rfl⟩
        exact hit
    · next hout =>
      have hnone : ∀ (r : Fin 32) (k : Fin 64), ¬ (r.val = row ∧ k.val = col) := by
        rintro r k ⟨rfl, rfl⟩
        exact hout ⟨r.isLt, k.isLt⟩
      simpa [hnone] using c.stamps_none

/-- One row of a sprite: bit 7 of its byte at column `x0`, then seven more to the right (R184). -/
theorem Canvas.plotRow_stamps (c : Canvas) (row x0 : Nat) (b : Byte) :
    c.Stamps (fun r k => decide (r.val = row ∧ x0 ≤ k.val ∧ k.val < x0 + 8) && b.getLsbD (7 - (k.val - x0)))
      (c.plotRow row x0 b) := by
  refine (Canvas.stamps_foldl_range (fun c k => c.plot_stamps row (x0 + k) (b.getLsbD (7 - k)))
    (fun j k r col hj hk => ?apart) 8 c).congr fun r col => ?bits
  case apart => simp only [Bool.and_eq_true, decide_eq_true_eq] at hj hk; omega
  case bits =>
    simp only [List.any_eq_true, List.mem_range, Bool.and_eq_true, decide_eq_true_eq]
    constructor
    · rintro ⟨k, hk, ⟨hrow, hcol⟩, hbit⟩
      exact ⟨⟨hrow, by omega, by omega⟩, by rwa [hcol, Nat.add_sub_cancel_left]⟩
    · rintro ⟨⟨hrow, hlo, hhi⟩, hbit⟩
      exact ⟨col.val - x0, by omega, ⟨hrow, by omega⟩, hbit⟩

/-- `spriteBit` in the terms of the renderer (R182). -/
theorem spriteBit_eq (s : State) (x y : Reg) (n : Nat) (row : Fin 32) (col : Fin 64) :
    spriteBit s x y n row col =
      (decide (s.drawRow y ≤ row.val ∧ row.val < s.drawRow y + n ∧ s.drawColumn x ≤ col.val ∧
          col.val < s.drawColumn x + 8) &&
        (s.mem.read (s.indexAddr 0 + (row.val - s.drawRow y))).getLsbD (7 - (col.val - s.drawColumn x))) := rfl

/-- The canvas of DRW: the display with the whole sprite brought to it (R181). -/
theorem State.drawn_stamps (s : State) (x y : Reg) (n : Nat) :
    Canvas.Stamps (spriteBit s x y n) { disp := s.disp, collide := false } (s.drawn x y n) := by
  refine (Canvas.stamps_foldl_range
    (fun c r => c.plotRow_stamps (s.drawRow y + r) (s.drawColumn x) (s.mem.read (s.indexAddr 0 + r)))
    (fun j k row col hj hk => ?apart) n _).congr fun row col => ?bits
  case apart => simp only [Bool.and_eq_true, decide_eq_true_eq] at hj hk; omega
  case bits =>
    simp only [spriteBit_eq, List.any_eq_true, List.mem_range, Bool.and_eq_true, decide_eq_true_eq]
    constructor
    · rintro ⟨r, hr, ⟨hrow, hcol⟩, hbit⟩
      exact ⟨⟨by omega, by omega, hcol⟩, by rwa [hrow, Nat.add_sub_cancel_left]⟩
    · rintro ⟨⟨hlo, hhi, hcol⟩, hbit⟩
      exact ⟨row.val - s.drawRow y, by omega, ⟨by omega, hcol⟩, hbit⟩

/-! ### DRW (R181) -/

/-- The state that DRW leaves where no row of its sprite lies outside memory. -/
def State.afterDraw (s : State) (x y : Reg) (n : Nat) : State :=
  (s.setDisp (s.drawn x y n).disp).writeFlag (s.drawn x y n).collide

section
variable {s : State} {x y : Reg} {n : Nat}

theorem exec_drw_of_fits (h : n = 0 ∨ s.i.toNat + n ≤ 4096) :
    exec (.drw x y n) s = .next (s.afterDraw x y n) :=
  withRange_ok h

/-- A draw that faults leaves the display (R60). -/
theorem drw_disp_of_past_end (h : ¬(n = 0 ∨ s.i.toNat + n ≤ 4096)) :
    Yields (.drw x y n) s fun t => t.disp = s.disp := by
  obtain ⟨t, hexec, _, _, hframe⟩ : TakesFault (.drw x y n) s .addressOutOfRange _ :=
    takesFault_of_past_end rfl (by omega) (by omega)
  exact ⟨t, hexec, hframe.parts_same .disp (by simp)⟩

theorem State.afterDraw_cell (row : Fin 32) (col : Fin 64) :
    (s.afterDraw x y n).disp.cell row col = (s.disp.cell row col ^^ spriteBit s x y n row col) :=
  (s.drawn_stamps x y n).cell row col

theorem State.afterDraw_cell_of_bit {row : Fin 32} {col : Fin 64} (h : spriteBit s x y n row col = true) :
    (s.afterDraw x y n).disp.cell row col = !s.disp.cell row col := by
  rw [State.afterDraw_cell, h, Bool.xor_true]

theorem State.drawn_collide : (s.drawn x y n).collide = true ↔
    ∃ row col, s.disp.cell row col = true ∧ spriteBit s x y n row col = true := by
  simpa using (s.drawn_stamps x y n).collide

theorem State.afterDraw_flag_of_hit
    (h : ∃ row col, s.disp.cell row col = true ∧ spriteBit s x y n row col = true) :
    (s.afterDraw x y n).readV 15 = 1 := by
  rw [State.afterDraw, State.readV_writeFlag_vf, State.drawn_collide.2 h]
  rfl

theorem State.afterDraw_flag_of_miss
    (h : ¬∃ row col, s.disp.cell row col = true ∧ spriteBit s x y n row col = true) :
    (s.afterDraw x y n).readV 15 = 0 := by
  have hmiss : (s.drawn x y n).collide = false := Bool.eq_false_iff.2 fun hit => h (State.drawn_collide.1 hit)
  rw [State.afterDraw, State.readV_writeFlag_vf, hmiss]
  rfl

theorem State.frame_afterDraw : Frame [15] [] [.disp] s (s.afterDraw x y n) :=
  (frame_setDisp (List.mem_singleton_self _) s _).trans (frame_writeFlag (List.mem_singleton_self _) _ _)

end

/-- Settles O32: the canvas is the display with the sprite brought to it, and VF whether a hit was recorded. -/
theorem drawXorsEachCell : Obligations.DrawXorsEachCell := by
  intro x y n s
  refine ⟨fun hn => decode_encode (i := .drw x y n) (decide_eq_true hn), fun hfits => ?drawn,
    takesFault_of_past_end rfl⟩
  refine ⟨_, exec_drw_of_fits hfits, State.afterDraw_cell, ?flag, rfl, State.frame_afterDraw⟩
  by_cases hit : ∃ row col, s.disp.cell row col = true ∧ spriteBit s x y n row col = true
  · exact .inl ⟨State.afterDraw_flag_of_hit hit, hit⟩
  · exact .inr ⟨State.afterDraw_flag_of_miss hit, by simpa using hit⟩

/-! ### The same draw again (R186, R187) -/

section
variable {s s' : State} {x y x' y' : Reg}

theorem SameDraw.spriteBit_eq (h : SameDraw s s' x y x' y') (n : Nat) (row : Fin 32) (col : Fin 64) :
    spriteBit s' x' y' n row col = spriteBit s x y n row col := by
  simp only [spriteBit, h.index, h.bytes, h.wrap, h.column, h.row]

/-- XOR with the same bits a second time undoes the first. -/
theorem SameDraw.afterDraw_disp {t : State} {n : Nat} (h : SameDraw s s' x y x' y')
    (hdrawn : ∀ row col, s'.disp.cell row col = (t.disp.cell row col ^^ spriteBit s x y n row col)) :
    (s'.afterDraw x' y' n).disp = t.disp := by
  refine Display.ext_cell fun row col => ?_
  rw [State.afterDraw_cell, hdrawn, h.spriteBit_eq, Bool.xor_assoc, Bool.xor_self, Bool.xor_false]

end

/-- Settles O34: where the sprite has a set bit, the three draws find the cell off, on and off. -/
theorem redrawTogglesAndCollides : Obligations.RedrawTogglesAndCollides := by
  intro x y x' y' x'' y'' n s s' s'' hfits ⟨row₀, col₀, hvisible⟩ hclear
  have hset : ∀ row col, spriteBit s x y n row col = true → (s.afterDraw x y n).disp.cell row col = true :=
    fun row col hbit => by rw [State.afterDraw_cell_of_bit hbit, hclear row col hbit, Bool.not_false]
  refine ⟨_, exec_drw_of_fits (.inr hfits), State.afterDraw_flag_of_miss ?miss, hset, fun hsame hdisp => ?second⟩
  case miss =>
    rintro ⟨row, col, hcell, hbit⟩
    simp [hclear row col hbit] at hcell
  case second =>
    have hbits := hsame.spriteBit_eq n
    have hcleared : ∀ row col, spriteBit s x y n row col = true →
        (s'.afterDraw x' y' n).disp.cell row col = false := fun row col hbit => by
      rw [State.afterDraw_cell_of_bit ((hbits row col).trans hbit), hdisp, hset row col hbit, Bool.not_true]
    have hhit : ∃ row col, s'.disp.cell row col = true ∧ spriteBit s' x' y' n row col = true :=
      ⟨row₀, col₀, hdisp ▸ hset row₀ col₀ hvisible, (hbits row₀ col₀).trans hvisible⟩
    refine ⟨_, exec_drw_of_fits (.inr (hsame.index ▸ hfits)), State.afterDraw_flag_of_hit hhit, hcleared,
      fun hsame' hdisp' => ?third⟩
    case third =>
      refine ⟨_, exec_drw_of_fits (.inr (hsame'.index ▸ hfits)), State.afterDraw_flag_of_miss ?miss,
        hsame'.afterDraw_disp fun row col => ?restored⟩
      case miss =>
        rintro ⟨row, col, hcell, hbit⟩
        rw [hsame'.spriteBit_eq] at hbit
        simp [hdisp', hcleared row col hbit] at hcell
      case restored => rw [hdisp', State.afterDraw_cell, hdisp, hbits]

/-! ### Who changes the display (R186) -/

/-- The word at `pc` is a CLS or a DRW. -/
def State.AtDisplayInstr (s : State) : Prop :=
  ∃ i, decode (wordOfBytes (s.mem.read s.pc.toNat) (s.mem.read (s.pc.toNat + 1))) = .ok i ∧
    (i = .cls ∨ ∃ x y n, i = .drw x y n)

@[simp] theorem State.closeSlot_disp (s : State) (left : Nat) : (s.closeSlot left).disp = s.disp := by
  unfold State.closeSlot
  split
  · rfl
  · split <;> rfl

section
variable {s t : State}

/-- A running slot changes the display only where it executes a CLS or a DRW: a fault of fetch or decode leaves it. -/
theorem atDisplayInstr_of_stepInstr (hs : s.fault = none) (h : stepInstr s = .next t) (hchanged : t.disp ≠ s.disp) :
    s.AtDisplayInstr := by
  rcases stepInstr_cases s hs with ⟨_, hfetch⟩ | ⟨_, _, _, _, _, hdecode⟩ | ⟨hpc, w, i, hw, hi, hexec⟩
  · rw [hfetch] at h; cases h; exact absurd rfl hchanged
  · rw [hdecode] at h; cases h; exact absurd rfl hchanged
  · rw [State.fetch_of_low hpc] at hw; cases hw
    rw [hexec] at h
    exact ⟨i, hi, writes_disp ((exec_frame i _ t h).mem_of_changed hchanged)⟩

theorem State.atDisplayInstr_of_slotInTick {n : Nat} (h : s.slotInTick n = .next t) (hchanged : t.disp ≠ s.disp) :
    s.AtDisplayInstr := by
  cases hs : s.fault with
  | some f => rw [State.slotInTick_of_halted hs] at h; cases h; exact absurd rfl hchanged
  | none =>
    cases n with
    | zero => rw [State.slotInTick_zero hs] at h; cases h; exact absurd rfl hchanged
    | succ left =>
      obtain ⟨u, hu, hclose⟩ := s.slotInTick_succ left hs
      rw [hclose] at h; cases h
      exact atDisplayInstr_of_stepInstr hs hu (by simpa using hchanged)

/-- The keypad phases at the start of a tick leave `pc`, memory and the display. -/
theorem State.atDisplayInstr_of_beginTick {events : List KeyEvent} (h : s.beginTick events = .next t)
    (hchanged : t.disp ≠ s.disp) : s.AtDisplayInstr := by
  cases hs : s.fault with
  | some f => rw [State.beginTick_of_halted hs] at h; cases h; exact absurd rfl hchanged
  | none =>
    rw [State.beginTick_of_running hs] at h
    exact State.atDisplayInstr_of_slotInTick (s := s.keypadPhase events) h hchanged

theorem reset_or_atDisplayInstr_of_step (h : step s = .next t) (hchanged : t.disp ≠ s.disp) :
    (s.tick = .boundary ∧ ∃ rest, s.inputs = .reset :: rest) ∨ s.AtDisplayInstr := by
  rcases step_cases s with ⟨n, _, hstep⟩ | ⟨_, _, hstep⟩ | ⟨_, events, rest, _, hstep⟩ |
    ⟨htick, rest, hreset, _⟩ | ⟨_, _, _, rest, _, hstep⟩
  · exact .inr (State.atDisplayInstr_of_slotInTick (hstep ▸ h) hchanged)
  · exact .inr (State.atDisplayInstr_of_beginTick (hstep ▸ h) hchanged)
  · exact .inr (State.atDisplayInstr_of_beginTick (s := s.setInputs rest) (hstep ▸ h) hchanged)
  · exact .inl ⟨htick, rest, hreset⟩
  · rw [hstep] at h; cases h; exact absurd rfl hchanged

end

/-- Settles O33: the display is in the frames of CLS and DRW alone, and two draws of one sprite XOR the same bits twice,
or both fault and leave the display. -/
theorem drawTwiceRestoresDisplay : Obligations.DrawTwiceRestoresDisplay := by
  refine ⟨fun s t => reset_or_atDisplayInstr_of_step, fun x y x' y' n s s' => ?_⟩
  by_cases hfits : n = 0 ∨ s.i.toNat + n ≤ 4096
  · refine ⟨_, exec_drw_of_fits hfits, fun hsame hdisp => ?_⟩
    refine ⟨_, exec_drw_of_fits (hsame.index ▸ hfits), hsame.afterDraw_disp fun row col => ?_⟩
    rw [hdisp, State.afterDraw_cell]
  · obtain ⟨t, hexec, hkept⟩ := drw_disp_of_past_end (x := x) (y := y) hfits
    refine ⟨t, hexec, fun hsame hdisp => ?_⟩
    obtain ⟨u, hexec', hkept'⟩ := drw_disp_of_past_end (s := s') (x := x') (y := y') (hsame.index ▸ hfits)
    exact ⟨u, hexec', hkept'.trans (hdisp.trans hkept)⟩

/-- Settles O31: CLS replaces the display by the clear one. -/
theorem clsClearsDisplay : Obligations.ClsClearsDisplay :=
  ⟨rfl, fun s => ⟨_, rfl, Display.clear_cell, rfl, frame_setDisp (List.mem_singleton_self _) s _⟩⟩

end Sys2Proof.Machine

/-! ## Keypad (45_keypad.md) -/

namespace Sys2Proof.Machine

/-! ### Ages and the record over a batch and over ticks (R200 to R203) -/

/-- An age that one kind of event sets to 0 and no other event changes is 0 after a batch that holds such an event, at
whatever place, and else as before (R201, R202). -/
theorem Keypad.foldl_event_age {age : Keypad → Byte} {target : KeyEvent}
    (hevent : ∀ p e, age (p.event e) = if e = target then 0 else age p) (events : List KeyEvent) (p : Keypad) :
    age (events.foldl Keypad.event p) = if target ∈ events then 0 else age p := by
  induction events generalizing p with
  | nil => simp
  | cons e rest ih =>
    rw [List.foldl_cons, ih, hevent]
    by_cases htail : target ∈ rest
    · simp [htail]
    · simp [htail, eq_comm]

theorem Keypad.update_pressAge (p : Keypad) (events : List KeyEvent) (k : Key) :
    (p.update events).pressAge[k] =
      if { key := k, kind := .pressed } ∈ events then 0 else ageStep p.pressAge[k] := by
  rw [Keypad.update, Keypad.foldl_event_age (age := (·.pressAge[k])) (fun q e => q.event_pressAge e k),
    Keypad.age_pressAge]

theorem Keypad.update_releaseAge (p : Keypad) (events : List KeyEvent) (k : Key) :
    (p.update events).releaseAge[k] =
      if { key := k, kind := .released } ∈ events then 0 else ageStep p.releaseAge[k] := by
  rw [Keypad.update, Keypad.foldl_event_age (age := (·.releaseAge[k])) (fun q e => q.event_releaseAge e k),
    Keypad.age_releaseAge]

/-- Releases leave the record alone (R202). -/
theorem Keypad.foldl_event_pending {events : List KeyEvent} (h : ∀ e ∈ events, e.kind = .released) (p : Keypad) :
    (events.foldl Keypad.event p).pending = p.pending := by
  refine List.foldlRecOn events Keypad.event (motive := fun q => q.pending = p.pending) rfl fun q hq e he => ?_
  simpa [Keypad.event, h e he] using hq

theorem Keypad.update_pending_of_releases {events : List KeyEvent} (h : ∀ e ∈ events, e.kind = .released)
    (p : Keypad) : (p.update events).pending = p.age.pending :=
  Keypad.foldl_event_pending h p.age

/-- The last press of a batch sets the record, whatever came before it (R201). -/
theorem Keypad.update_pending_of_last_press {before after : List KeyEvent} {k : Key}
    (h : ∀ e ∈ after, e.kind = .released) (p : Keypad) :
    (p.update (before ++ { key := k, kind := .pressed } :: after)).pending = { valid := true, key := k, age := 0 } := by
  rw [Keypad.update, List.foldl_append, List.foldl_cons, Keypad.foldl_event_pending h]
  rfl

/-- Over ticks without a press of the key its press age grows by one a tick, up to AGE_MAX (R200). -/
theorem Keypad.foldl_update_pressAge {k : Key} {later : List (List KeyEvent)}
    (h : ∀ batch ∈ later, { key := k, kind := .pressed } ∉ batch) (p : Keypad) :
    ((later.foldl Keypad.update p).pressAge[k]).toNat = min ((p.pressAge[k]).toNat + later.length) 255 := by
  induction later generalizing p with
  | nil =>
    have hbyte := (p.pressAge[k]).isLt
    simp only [List.foldl_nil, List.length_nil]
    omega
  | cons batch rest ih =>
    obtain ⟨hbatch, hrest⟩ := List.forall_mem_cons.1 h
    rw [List.foldl_cons, ih hrest, Keypad.update_pressAge, if_neg hbatch, ageStep_toNat, List.length_cons]
    omega

/-- Settles O40: every age steps, then an event's own age is 0 and the record is that of the last press. -/
theorem keypadAgesThenTakesEvents : Obligations.KeypadAgesThenTakesEvents := by
  intro p events
  refine ⟨fun k => ⟨?press, ?release⟩, fun hreleases => ?record, fun before after k hevents hreleases => ?lastPress⟩
  case press =>
    rw [Keypad.update_pressAge, apply_ite BitVec.toNat, ageStep_toNat]
    rfl
  case release =>
    rw [Keypad.update_releaseAge, apply_ite BitVec.toNat, ageStep_toNat]
    rfl
  case record =>
    rw [Keypad.update_pending_of_releases hreleases]
    cases hvalid : p.pending.valid with
    | true => simp [Keypad.age_pending_of_valid hvalid, hvalid, ageStep_toNat]
    | false => simp [Keypad.age_pending_of_not_valid hvalid, hvalid]
  case lastPress =>
    rw [hevents]
    exact Keypad.update_pending_of_last_press hreleases p

/-- Settles O41: the press sets the age to 0, and each later tick adds one. -/
theorem pressIsVisibleForFourTicks : Obligations.PressIsVisibleForFourTicks := by
  refine ⟨Keypad.isPressed_iff, fun p k events later hpress hlater => ?_⟩
  have hzero : ((p.update events).pressAge[k]).toNat = 0 := by
    rw [Keypad.update_pressAge, if_pos hpress]
    rfl
  rw [Keypad.isPressed_iff, Keypad.foldl_update_pressAge hlater, hzero]
  omega

/-! ### SKP and SKNP (R206 to R208) -/

/-- The two ways a register value names a key: in range by itself, or masked (R206). -/
theorem keyArg_of_named {mode : KeyIndexMode} {b : Byte} {k : Key}
    (h : b.toNat = k.val ∨ (0xF < b.toNat ∧ mode = .mask ∧ b.toNat % 16 = k.val)) : keyArg mode b = some k := by
  obtain hle | ⟨hhigh, rfl, hmask⟩ := h
  · exact keyArg_of_le hle
  · exact keyArg_mask hhigh hmask

section
variable {x : Reg} {s : State} {k : Key} (h : keyArg s.config.keyIndex (s.readV x) = some k)
include h

theorem exec_skp_of_key : exec (.skp x) s = .next (s.skipIf (s.keypad.isPressed k)) := by
  simp only [exec, execSkp, h]

theorem exec_sknp_of_key : exec (.sknp x) s = .next (s.skipIf (s.keypad.skipNotCond s.config.keySkipNot k)) := by
  simp only [exec, execSknp, h]

theorem exec_sknp_of_notPressed (hmode : s.config.keySkipNot = .notPressed) :
    exec (.sknp x) s = .next (s.skipIf (decide ¬(s.keypad.pressAge[k]).toNat ≤ 3)) := by
  rw [exec_sknp_of_key h, hmode, decide_not]
  rfl

theorem exec_sknp_of_released (hmode : s.config.keySkipNot = .released) :
    exec (.sknp x) s = .next (s.skipIf (decide ((s.keypad.releaseAge[k]).toNat ≤ 3))) := by
  rw [exec_sknp_of_key h, hmode]
  rfl

end

section
variable {x : Reg} {s : State} (h : keyArg s.config.keyIndex (s.readV x) = none)
include h

theorem exec_skp_of_no_key : exec (.skp x) s = raise (.skp x) .keyOutOfRange (zextByte (s.readV x)) s := by
  simp only [exec, execSkp, h]

theorem exec_sknp_of_no_key : exec (.sknp x) s = raise (.sknp x) .keyOutOfRange (zextByte (s.readV x)) s := by
  simp only [exec, execSknp, h]

end

/-- Settles O37: both are a `skipIf` on the key that `keyArg` answers, or raise where it answers none. -/
theorem keySkipsFollowAges : Obligations.KeySkipsFollowAges := by
  intro x s
  refine ⟨decode_encode (i := .skp x) rfl, decode_encode (i := .sknp x) rfl, fun k hnamed => ?key,
    fun hhigh hmode => ?fault⟩
  case key =>
    have hkey := keyArg_of_named hnamed
    exact ⟨yields_skip (exec_skp_of_key hkey), fun hmode => yields_skip_unless (exec_sknp_of_notPressed hkey hmode),
      fun hmode => yields_skip (exec_sknp_of_released hkey hmode)⟩
  case fault =>
    have hnone : keyArg s.config.keyIndex (s.readV x) = none := hmode ▸ keyArg_fault hhigh
    exact ⟨takesFault_of_raise (exec_skp_of_no_key hnone), takesFault_of_raise (exec_sknp_of_no_key hnone)⟩

/-! ### LD Vx, K (R205, R209, R210) -/

theorem PendingKeyWait.fresh_of_age_zero {p : PendingKeyWait} (hvalid : p.valid = true) (hage : p.age = 0) :
    p.fresh = true := by
  simp [PendingKeyWait.fresh, hvalid, hage]

theorem PendingKeyWait.not_fresh_of_stale {p : PendingKeyWait} (h : p.valid = false ∨ p.age ≠ 0) : p.fresh = false := by
  rcases h with hinvalid | hold
  · simp [PendingKeyWait.fresh, hinvalid]
  · rw [PendingKeyWait.fresh, decide_eq_false hold, Bool.and_false]

section
variable {s : State}

theorem exec_ldVxK_of_fresh (h : s.keypad.pending.fresh = true) (x : Reg) :
    exec (.ldVxK x) s =
      .next ((s.writeV x (BitVec.ofNat 8 s.keypad.pending.key.val)).setKeypad s.keypad.consume) :=
  if_pos h

theorem exec_ldVxK_of_blocked (h : s.keypad.pending.fresh = false) (x : Reg) :
    exec (.ldVxK x) s = .next (s.setPc (s.pc - 2)) :=
  if_neg (by simp [h])

/-- A slot at a blocked LD Vx, K is a no-op on the state: `pc` goes forth and back (R93, R209). -/
theorem stepInstr_of_blocked_key_wait {x : Reg} (hs : s.fault = none) (hpc : s.pc.toNat ≤ 0xFFE)
    (hdecode : decode (wordOfBytes (s.mem.read s.pc.toNat) (s.mem.read (s.pc.toNat + 1))) = .ok (.ldVxK x))
    (h : s.keypad.pending.fresh = false) : stepInstr s = .next s := by
  have hback : s.pc + 2 - 2 = s.pc := BitVec.add_sub_cancel s.pc 2
  rw [stepInstr_exec hs (State.fetch_of_low hpc) hdecode, exec_ldVxK_of_blocked (s := s.advancePc) h,
    State.advancePc_pc, hback]
  rfl

/-- A batch of slots that are each a no-op is one. -/
theorem runBatch_of_idle_slot (hs : s.fault = none) (hidle : stepInstr s = .next s) (n : Nat) :
    runBatch n s = .next s := by
  induction n with
  | zero => rfl
  | succ n ih => rw [runBatch_succ_of_running hidle hs, ih]

end

/-- Settles O38: the fresh press is taken and consumed, and without one `pc` alone changes. -/
theorem keyWaitTakesFreshPress : Obligations.KeyWaitTakesFreshPress := by
  intro x s
  refine ⟨decode_encode (i := .ldVxK x) rfl, fun hvalid hage => ?fresh, fun hstale => ?blocked⟩
  case fresh =>
    have hkey : s.keypad.pending.key.val < 2 ^ 8 := by omega
    refine ⟨_, exec_ldVxK_of_fresh (PendingKeyWait.fresh_of_age_zero hvalid hage) x, ?_, rfl, rfl,
      (frame_writeV (List.mem_singleton_self x) s _).trans (frame_setKeypad (List.mem_singleton_self _) _ _)⟩
    rw [State.setKeypad_readV, State.readV_writeV_same, BitVec.toNat_ofNat, Nat.mod_eq_of_lt hkey]
  case blocked =>
    exact ⟨_, exec_ldVxK_of_blocked (PendingKeyWait.not_fresh_of_stale hstale) x, rfl, frame_setPc s _⟩

/-- Settles O39: after the keypad phases each slot of the batch is a no-op, so that only the decay is left. -/
theorem blockedKeyWaitTickIsIdle : Obligations.BlockedKeyWaitTickIsIdle := by
  intro x s events hs hpc hdecode hstale
  have hrun : (s.keypadPhase events).fault = none := hs
  have hidle : stepInstr (s.keypadPhase events) = .next (s.keypadPhase events) :=
    stepInstr_of_blocked_key_wait hrun hpc hdecode (PendingKeyWait.not_fresh_of_stale hstale)
  rw [stepTick_of_running hs (runBatch_of_idle_slot hrun hidle _), State.afterBatch_of_running hrun]

end Sys2Proof.Machine

/-! ## Timers (46_timers.md) -/

namespace Sys2Proof.Machine

/-! ### Decay (R220 to R222) -/

@[simp] theorem State.decayTimers_dt (s : State) :
    s.decayTimers.dt = decay s.config.timerDecay s.dt (Config.decayByte s.draws.decay) := rfl

/-- ST decays after DT, so its free value is the next one where DT has taken one (Log 7). -/
@[simp] theorem State.decayTimers_st (s : State) :
    s.decayTimers.st = decay s.config.timerDecay s.st
      (Config.decayByte (drawsAfter s.config.timerDecay s.dt s.draws.decay)) := rfl

theorem frame_decayTimers (s : State) : Frame [] [] [.dt, .st, .draws] s s.decayTimers where
  regs_same _ _ := rfl
  mem_same _ _ := rfl
  parts_same p hn := by cases p with
    | dt | st | draws => exact absurd hn (by decide)
    | _ => rfl

/-- Settles O43: each timer takes its `decay`, whose free value is used neither by saturation nor by mod60 below 60. -/
theorem timersDecay : Obligations.TimersDecay := by
  intro s
  refine ⟨s.decayTimers_pc, frame_decayTimers s, fun hsaturate => ?saturate,
    fun hmod => ⟨fun hdt => ?dt, fun hst => ?st⟩⟩
  case saturate =>
    rw [State.decayTimers_dt, State.decayTimers_st, hsaturate]
    exact ⟨decay_saturate _ _, decay_saturate _ _⟩
  case dt =>
    rw [State.decayTimers_dt, hmod]
    exact decay_mod60 _ hdt
  case st =>
    rw [State.decayTimers_st, hmod]
    exact decay_mod60 _ hst

/-! ### Timer moves (R223 to R225) -/

/-- Settles O42: each of the three is one write, of V[x], of DT or of ST. -/
theorem timerMoves : Obligations.TimerMoves := fun x s =>
  ⟨decode_encode (i := .ldVxDt x) rfl, yields_writeV rfl,
    decode_encode (i := .ldDtVx x) rfl, ⟨_, rfl, rfl, rfl, frame_setDt (List.mem_singleton_self _) s _⟩,
    decode_encode (i := .ldStVx x) rfl, ⟨_, rfl, rfl, rfl, frame_setSt (List.mem_singleton_self _) s _⟩⟩

end Sys2Proof.Machine

/-! ## Precise faults and the FAULT registers (60_exceptions.md) -/

namespace Sys2Proof.Machine

/-- Settles O9: the state of a faulting slot is the one before it with the FAULT registers written, so clearing them gives
back a running state. -/
theorem faultsArePrecise : Obligations.FaultsArePrecise := by
  intro s t f hs hslot hf
  obtain ⟨rfl, hpc⟩ := stepInstr_fault_precise hs hslot hf
  refine ⟨?_, hpc⟩
  show { s with fault := none } = s
  rw [← hs]

/-- Settles O54: of the parts of a step only a slot raises a fault, at `pc` and by the table of R241, and a reset clears
it. -/
theorem faultInvIsKept : Obligations.FaultInvIsKept := fun _ _ hinv hstep => step_faultInv hinv hstep

end Sys2Proof.Machine

/-! ## The host's reset (70_reset_and_hazards.md R270, R274) -/

namespace Sys2Proof.Machine

theorem frame_setDraws {regs : List Reg} {addrs : List Nat} {parts : List Part} (hp : .draws ∈ parts) (s : State)
    (d : Draws) : Frame regs addrs parts s (s.setDraws d) where
  regs_same _ _ := rfl
  mem_same _ _ := rfl
  parts_same p hn := by cases p with
    | draws => exact absurd hp hn
    | _ => rfl

/-- Settles O47: a reset is the construction from the parameters kept, then the host's later moves and the counts of free
values put back. -/
theorem hostResetGivesInitialState : Obligations.HostResetGivesInitialState := by
  intro s rest htick hinputs hfits
  have hreset : step s = .next (((State.init s.params).setInputs rest).setDraws s.draws) :=
    (step_of_reset htick hinputs).trans (State.restart_of_fits (s := s.setInputs rest) hfits)
  have hframe : Frame [] [] [.inputs, .draws] (State.init s.params)
      (((State.init s.params).setInputs rest).setDraws s.draws) :=
    (frame_setInputs (by simp) _ rest).trans (frame_setDraws (by simp) _ s.draws)
  exact ⟨_, State.init s.params, hreset, construct_accepts hfits, rfl, rfl, rfl, hframe⟩

end Sys2Proof.Machine
